-- ==== Sys2Proof/Word.lean ====
section
/-! DEFINITION. Word.lean: bytes, tables of a fixed number of like cells, and counts that stop at a limit. -/

namespace Sys2Proof

/-- A byte of a cell's payload or of a management message. -/
abbrev Byte := BitVec 8

/-- A fixed number of like things, addressed by number: a register bank, a table, one block per port. -/
structure Bank (n : Nat) (α : Type) where
  cells : List α
  size : cells.length = n
  deriving DecidableEq, Repr

namespace Bank

variable {n : Nat} {α : Type}

def get (b : Bank n α) (i : Fin n) : α := b.cells[i.val]'(by rw [b.size]; exact i.isLt)

def set (b : Bank n α) (i : Fin n) (x : α) : Bank n α :=
  ⟨b.cells.set i.val x, by rw [List.length_set, b.size]⟩

def upd (b : Bank n α) (i : Fin n) (f : α → α) : Bank n α := b.set i (f (b.get i))

/-- The bank whose cell `i` is `f i`. -/
def tab (f : Fin n → α) : Bank n α :=
  ⟨(List.finRange n).map f, by rw [List.length_map, List.length_finRange]⟩

/-- The bank whose cells are all `x`. -/
def fill (x : α) : Bank n α := ⟨List.replicate n x, List.length_replicate⟩

@[ext] theorem ext {a b : Bank n α} (h : ∀ i, a.get i = b.get i) : a = b := by
  obtain ⟨xs, hx⟩ := a
  obtain ⟨ys, hy⟩ := b
  have : xs = ys := by
    apply List.ext_getElem (hx.trans hy.symm)
    intro k h1 _
    exact h ⟨k, hx ▸ h1⟩
  subst this
  rfl

theorem get_set (b : Bank n α) (i j : Fin n) (x : α) :
    (b.set i x).get j = if i = j then x else b.get j := by
  simp [get, set, List.getElem_set, Fin.ext_iff]

@[simp] theorem get_set_self (b : Bank n α) (i : Fin n) (x : α) : (b.set i x).get i = x := by
  simp [get_set]

@[simp] theorem get_set_ne (b : Bank n α) {i j : Fin n} (h : i ≠ j) (x : α) :
    (b.set i x).get j = b.get j := by
  simp [get_set, h]

theorem get_upd (b : Bank n α) (i j : Fin n) (f : α → α) :
    (b.upd i f).get j = if i = j then f (b.get j) else b.get j := by
  rw [upd, get_set]; split
  · next h => rw [h]
  · rfl

@[simp] theorem get_upd_self (b : Bank n α) (i : Fin n) (f : α → α) :
    (b.upd i f).get i = f (b.get i) := by
  simp [upd]

@[simp] theorem get_upd_ne (b : Bank n α) {i j : Fin n} (h : i ≠ j) (f : α → α) :
    (b.upd i f).get j = b.get j := by
  simp [upd, h]

@[simp] theorem get_tab (f : Fin n → α) (i : Fin n) : (tab f).get i = f i := by
  simp [get, tab]

@[simp] theorem get_fill (x : α) (i : Fin n) : (fill x : Bank n α).get i = x := by
  simp [get, fill]

@[simp] theorem set_get (b : Bank n α) (i : Fin n) : b.set i (b.get i) = b := by
  ext j; rw [get_set]; split
  · next h => rw [h]
  · rfl

@[simp] theorem tab_get (b : Bank n α) : tab b.get = b := by
  ext i; simp

end Bank

/-- A count raised by `k` that stays at `limit` once it has reached it. -/
def raiseTo (limit k n : Nat) : Nat := min limit (n + k)

theorem raiseTo_le (limit k n : Nat) : raiseTo limit k n ≤ limit := Nat.min_le_left _ _

/-- All numbers below `n` in cyclic order, starting at `start`. -/
def cyclic {n : Nat} [NeZero n] (start : Fin n) : List (Fin n) :=
  (List.finRange n).map (fun k => start + k)

theorem mem_cyclic {n : Nat} [NeZero n] (start i : Fin n) : i ∈ cyclic start := by
  refine List.mem_map.mpr ⟨i - start, List.mem_finRange _, ?_⟩
  exact add_sub_cancel start i

end Sys2Proof
end

