-- ==== Sys2Proof/Config.lean ====
section
/-! DEFINITION. Config.lean: the time unit, and the values the manual leaves open. -/

namespace Sys2Proof.Config

/-- Periods of the 100 MHz reference clock in one microsecond (spec/00_scope.md, Electrical Summary). -/
def microsecond : Nat := 100

/-- Periods of the reference clock in one millisecond. -/
def millisecond : Nat := 100000

/-- FREE VALUE (log 3): which of several blocks' fault offers, made at one event, reaches the fault capture
first. The manual says that whichever is taken first fills it and does not say which that is (R177, R88). -/
opaque firstOffer : Nat → Nat

/-- FREE VALUE (log 4): whether the REFUSE goes ahead of the RESUME when one absorption generates both (R7, R12). -/
opaque refuseFirst : Nat → Bool

end Sys2Proof.Config
end

