-- ==== Sys2Proof/Syntax.lean ====
section
/-! DEFINITION. Syntax.lean: the commands of the block, one constructor for each row of spec/opcode_table.json. -/

namespace Sys2Proof

/-- A port, P0 to P31. -/
abbrev Port := Fin 32
/-- A logical destination, D0 to D63. -/
abbrev Dest := Fin 64
/-- A service class, C0 to C3. -/
abbrev Cls := Fin 4
/-- A multicast group, G0 to G1023. -/
abbrev Group := Fin 1024
/-- A Replication Buffer slot number, S0 to S63. -/
abbrev SlotNo := Fin 64
/-- A rate meter channel, M0 to M3. -/
abbrev Chan := Fin 4
/-- A grant tag; raising it by one is modulo 256 (R73). -/
abbrev Tag := Fin 256
/-- A plane number, the level of the three strap pins. -/
abbrev Plane := Fin 8
/-- A point in time, in periods of the 100 MHz reference clock. -/
abbrev Time := Nat

/-- The two management links. -/
inductive MgmtLink
  | a | b
  deriving DecidableEq, Repr

/-- An upstream cell that arrived with a good check (section 11.2). -/
structure UpCell where
  tag : Tag
  first : Bool
  last : Bool
  length : Fin 256
  flow : BitVec 24
  payload : List Byte
  deriving DecidableEq, Repr

/-- A unicast candidate of an egress arbiter: ingress, destination and class (R48). -/
structure Candidate where
  ingress : Port
  dest : Dest
  cls : Cls
  deriving DecidableEq, Repr

/-- The operations and events of the part. A command of a management link carries the link it came on and its
argument fields as the bytes of the message; an expiry carries the time it is the expiry of (log 2). -/
inductive Instr
  -- resets and table initialisation
  | powerOn (strap : Plane) (presence : BitVec 32) (resetAsserted : Bool)
  | resetLineAssert
  | resetLineRelease (strap : Plane)
  | tableInitialisationCompletion (due : Time)
  -- inputs and words of a midplane link
  | presenceChange (p : Port) (present : Bool)
  | mark (p : Port)
  | framingFailure (p : Port)
  | failedWord (p : Port)
  | hello (p : Port) (bufferCount : Fin 128)
  | request (p : Port) (d : Dest) (c : Cls) (n : Fin 16)
  | groupRequest (p : Port) (g : Group) (c : Cls)
  | resync (p : Port)
  | credit (p : Port) (n : Fin 32)
  | cell (p : Port) (x : UpCell)
  -- the part's own arbiters, transmitters and timers
  | absorption
  | unicastGrantDecision (j : Port) (chosen : Option Candidate)
  | deliveryDecision (j : Port)
  | allocatorDecision
  | grantExpiry (p : Port) (tag : Tag) (due : Time)
  | transmissionStart (j : Port)
  | transmitCompletion (j : Port)
  | exchangeTimerExpiry (p : Port) (due : Time)
  | checkErrorWindowExpiry (p : Port) (due : Time)
  | claimTimerExpiry (due : Time)
  | meterGateExpiry (m : Chan) (due : Time)
  -- management messages
  | messageCheckFailure (l : MgmtLink)
  | unknownCommand (l : MgmtLink) (code : Byte)
  | identify (l : MgmtLink)
  | claim (l : MgmtLink)
  | refresh (l : MgmtLink)
  | release (l : MgmtLink)
  | setTiming (l : MgmtLink) (window timeout : Byte)
  | setPort (l : MgmtLink) (port enable hold policy sole turn threshold : Byte)
  | readPort (l : MgmtLink) (port : Byte)
  | fabricRestart (l : MgmtLink)
  | stageMap (l : MgmtLink) (dest state port : Byte)
  | discardStaging (l : MgmtLink)
  | commitMap (l : MgmtLink)
  | readStaging (l : MgmtLink)
  | readMap (l : MgmtLink)
  | writeGroup (l : MgmtLink) (g : BitVec 16) (valid prune : Byte) (members : List Byte)
  | readGroup (l : MgmtLink) (g : BitVec 16)
  | readRequests (l : MgmtLink) (port : Byte)
  | readEvents (l : MgmtLink)
  | clearEvents (l : MgmtLink) (kinds : BitVec 16)
  | setMask (l : MgmtLink) (kinds : BitVec 16)
  | readCapture (l : MgmtLink)
  | clearCapture (l : MgmtLink)
  | readTallies (l : MgmtLink) (port : Byte)
  | clearTallies (l : MgmtLink) (port : Byte)
  | startMeter (l : MgmtLink) (chan port direction gate : Byte)
  | stopMeter (l : MgmtLink) (chan : Byte)
  | readMeter (l : MgmtLink) (chan : Byte)
  -- the transmitter's control words
  | controlWordTransmission (j : Port)
  deriving DecidableEq, Repr

end Sys2Proof
end

