-- ==== Sys2Proof/WellFormed.lean ====
section
/-! DEFINITION. WellFormed.lean: what a command that came off a link satisfies beyond the ranges of its types. -/

namespace Sys2Proof

/-- A cell's payload field holds 128 bytes (R186). -/
def UpCell.wf (x : UpCell) : Bool := x.payload.length == 128

/-- A member list is sent behind a count of one byte (section 11.3). -/
def memberListFits (members : List Byte) : Bool := decide (members.length < 256)

/-- A well-formed command. Only CELL and WRITE GROUP carry lists whose length the formats bound. -/
def Instr.wf : Instr → Bool
  | .cell _ x => x.wf
  | .writeGroup _ _ _ _ members => memberListFits members
  | .powerOn .. | .resetLineAssert | .resetLineRelease .. | .tableInitialisationCompletion ..
  | .presenceChange .. | .mark .. | .framingFailure .. | .failedWord .. | .hello .. | .request ..
  | .groupRequest .. | .resync .. | .credit .. | .absorption | .unicastGrantDecision ..
  | .deliveryDecision .. | .allocatorDecision | .grantExpiry .. | .transmissionStart ..
  | .transmitCompletion .. | .exchangeTimerExpiry .. | .checkErrorWindowExpiry .. | .claimTimerExpiry ..
  | .meterGateExpiry .. | .messageCheckFailure .. | .unknownCommand .. | .identify .. | .claim ..
  | .refresh .. | .release .. | .setTiming .. | .setPort .. | .readPort .. | .fabricRestart ..
  | .stageMap .. | .discardStaging .. | .commitMap .. | .readStaging .. | .readMap .. | .readGroup ..
  | .readRequests .. | .readEvents .. | .clearEvents .. | .setMask .. | .readCapture .. | .clearCapture ..
  | .readTallies .. | .clearTallies .. | .startMeter .. | .stopMeter .. | .readMeter ..
  | .controlWordTransmission .. => true

end Sys2Proof
end

