-- ==== Sys2Proof/Decode.lean ====
section
/-! DEFINITION. Decode.lean: the command a word spells by the opcode table's bits. No row of the table gives any
bits, so no word spells a command; the link formats of chapter 11 are read in Sys2Proof/Machine/Formats.lean. -/

namespace Sys2Proof

/-- The command that `w`, of `nbits` bits, spells by the bits of spec/opcode_table.json: none, for every word. -/
def decodeTableWord (_nbits _w : Nat) : Option Instr := none

end Sys2Proof
end

