-- ==== Sys2Proof/Machine/State.lean ====
section
/-! DEFINITION. Machine/State.lean: everything the manual gives the part to hold, as plain data, and its reset values. -/

namespace Sys2Proof.Machine

/-! ### Link ports (chapter 7) -/

/-- The states of a link port (R134, section 7.1). -/
inductive LinkState
  | off | dark | aligning | exchange | up | faulted
  deriving DecidableEq, Repr

/-- The seven tallies of a port (R179). -/
structure Tallies where
  cellsIn : Nat
  cellsOut : Nat
  lapsed : Nat
  late : Nat
  refused : Nat
  checkErrors : Nat
  emptyFanouts : Nat
  deriving DecidableEq, Repr

def Tallies.zero : Tallies := ⟨0, 0, 0, 0, 0, 0, 0⟩

/-- What a link port holds (R134). A timer is its expiry time while it runs, and none while it is stopped. -/
structure LinkPort where
  link : LinkState
  presence : Bool
  goodMarks : Nat
  framingRun : Nat
  exchangeTimer : Option Time
  retry : Nat
  window : Option Time
  windowCount : Nat
  bufferCount : Nat
  enable : Bool
  holdEnable : Bool
  threshold : Nat
  stickyA : Bool
  stickyB : Bool
  tallies : Tallies
  deriving DecidableEq, Repr

/-- A link port after a full reset (R150); presence is the level of the slot's input as it stands. -/
def LinkPort.reset (presence : Bool) : LinkPort where
  link := .off
  presence := presence
  goodMarks := 0
  framingRun := 0
  exchangeTimer := none
  retry := 0
  window := none
  windowCount := 0
  bufferCount := 0
  enable := false
  holdEnable := true
  threshold := 64
  stickyA := false
  stickyB := false
  tallies := Tallies.zero

/-! ### Requests (chapter 1) -/

/-- A word of an intake queue, with its fields as received (R1). -/
inductive RequestWord
  | request (d : Dest) (c : Cls) (n : Fin 16)
  | group (g : Group) (c : Cls)
  deriving DecidableEq, Repr

/-- The request intake of a port (R1). -/
structure Intake where
  queue : List RequestWord
  hold : Bool
  blocked : Bool
  deriving DecidableEq, Repr

def Intake.idle : Intake := ⟨[], false, false⟩

/-- The counts of one ingress port over all destinations and classes (R16). -/
abbrev Row := Bank 64 (Bank 4 Nat)

def Row.zero : Row := Bank.fill (Bank.fill 0)

/-! ### The Port Map (chapter 2) -/

/-- The state of a Port Map entry, with its physical port while it has one (R22). -/
inductive Mapping
  | void
  | parked (p : Port)
  | active (p : Port)
  deriving DecidableEq, Repr

structure MapEntry where
  map : Mapping
  drain : Nat
  deriving DecidableEq, Repr

def MapEntry.void : MapEntry := ⟨.void, 0⟩

/-- A pending change of the Port Map (R28). -/
structure StagedEntry where
  dest : Dest
  map : Mapping
  deriving DecidableEq, Repr

/-! ### Egress arbiters (chapter 3) -/

inductive Policy
  | round | strict | classRound | sole
  deriving DecidableEq, Repr

/-- What an egress arbiter holds (R44). Cell 0 of `ptrs` is the ROUND pointer, which class C0 uses under
CLASS_ROUND; cells 1 to 3 are the C1, C2 and C3 pointers. -/
structure Arbiter where
  credit : Nat
  inFlight : Nat
  policy : Policy
  sole : Port
  turn : Nat
  u : Nat
  ptrs : Bank 4 Port
  delivery : List SlotNo
  deriving DecidableEq, Repr

/-- An arbiter after a full reset (R70, R64). -/
def Arbiter.reset : Arbiter where
  credit := 0
  inFlight := 0
  policy := .classRound
  sole := 0
  turn := 3
  u := 0
  ptrs := Bank.fill 0
  delivery := []

/-- The arbiter's idle values: its settings are kept (R67, R69). -/
def Arbiter.idle (a : Arbiter) : Arbiter where
  credit := 0
  inFlight := 0
  policy := a.policy
  sole := a.sole
  turn := a.turn
  u := 0
  ptrs := Bank.fill 0
  delivery := []

/-! ### Grant lists (chapter 4) -/

/-- What a grant record or a GRANT names: its cast, and a destination or a group (R72, R76). -/
inductive CastItem
  | unicast (d : Dest)
  | multicast (g : Group)
  deriving DecidableEq, Repr

/-- What a grant record's cell is carried to (R72). -/
inductive GrantTarget
  | unicast (d : Dest) (j : Port)
  | multicast (g : Group) (s : SlotNo)
  deriving DecidableEq, Repr

/-- A grant record (R72); the expiry is absent when the grant window was OFF at issue. -/
structure GrantRecord where
  tag : Tag
  cls : Cls
  target : GrantTarget
  expiry : Option Time
  deriving DecidableEq, Repr

structure GrantList where
  records : List GrantRecord
  nextTag : Tag
  deriving DecidableEq, Repr

def GrantList.empty : GrantList := ⟨[], 0⟩

inductive GrantWindow
  | us2 | us4 | us8 | us16 | off
  deriving DecidableEq, Repr

/-! ### Cells and the transmit stage (chapter 5) -/

/-- What is carried through of a cell: flags, payload length 1 to 128, flow label and the payload bytes up to
the payload length (R82, R98). -/
structure CellContent where
  first : Bool
  last : Bool
  length : Nat
  flow : BitVec 24
  payload : List Byte
  deriving DecidableEq, Repr

/-- An entry of a transmit queue (R98). -/
inductive TxEntry
  | unicast (src : Port) (c : Cls) (d : Dest) (x : CellContent)
  | copy (s : SlotNo)
  deriving DecidableEq, Repr

/-- A cell sent down a link (R101). -/
structure DownCell where
  src : Port
  cls : Cls
  item : CastItem
  content : CellContent
  deriving DecidableEq, Repr

inductive RefuseReason
  | overrun | ceiling | noRoute | noGroup | mcastFull
  deriving DecidableEq, Repr

/-- The kind of a refused word, with its destination or group (R10). -/
inductive RefusedItem
  | request (d : Dest)
  | group (g : Group)
  deriving DecidableEq, Repr

/-- The downstream control words (R10, R76, R139, section 11.1). -/
inductive DownWord
  | mark
  | hello (plane : Plane) (p : Port)
  | grant (tag : Tag) (c : Cls) (item : CastItem)
  | lapsed (tag : Tag) (c : Cls) (item : CastItem)
  | refuse (reason : RefuseReason) (item : RefusedItem) (c : Cls) (count : Nat)
  | hold
  | resume
  | withdrawn (d : Dest)
  | synced
  deriving DecidableEq, Repr

/-- The transmit stage of a port: its queue from the head, whether the head is in transmission, and the control
words generated for the link and not yet sent, oldest first (R98, R100, R108). -/
structure Transmit where
  queue : List TxEntry
  sending : Bool
  words : List DownWord
  deriving DecidableEq, Repr

def Transmit.empty : Transmit := ⟨[], false, []⟩

/-! ### Multicast (chapter 6) -/

/-- A Group Table entry (R109). The members are kept in ascending order, each once (log 23). -/
structure GroupEntry where
  valid : Bool
  members : List Dest
  prune : Bool
  deriving DecidableEq, Repr

def GroupEntry.invalid : GroupEntry := ⟨false, [], false⟩

/-- A record of a multicast request queue (R114). -/
structure McastRequest where
  group : Group
  cls : Cls
  deriving DecidableEq, Repr

/-- A Replication Buffer slot with the items its state has (R121). The reference set is kept in ascending order,
each port once (log 23). -/
inductive Slot
  | free
  | reserved (src : Port) (g : Group) (c : Cls)
  | filled (src : Port) (g : Group) (c : Cls) (x : CellContent) (refs : List Port)
  deriving DecidableEq, Repr

/-! ### Steering, events, capture, meters (chapters 8 and 9) -/

inductive ClaimTimeout
  | ms10 | ms50 | ms200 | ms1000
  deriving DecidableEq, Repr

/-- The cause of the last full reset (R169). -/
inductive StartCause
  | power | line
  deriving DecidableEq, Repr

/-- The thirteen event kinds, in the order of R173. -/
inductive EventKind
  | portUp | portDown | portFaulted | alignLost | presenceChange | grantLapsed | lateCell
  | requestRefused | creditExcess | claimLapsed | tablesReady | meterDone | faultCaptured
  deriving DecidableEq, Repr

/-- A set of event kinds, one bit a kind, bit 0 for PORT_UP (R172, section 11.3). -/
abbrev EventSet := BitVec 13

structure EventView where
  flags : EventSet
  mask : EventSet
  deriving DecidableEq, Repr

def EventView.empty : EventView := ⟨0, 0⟩

/-- A fault with the fields its kind carries (R177). -/
inductive FaultRecord
  | lapse (p : Port) (tag : Tag) (item : CastItem) (c : Cls)
  | late (p : Port) (tag : Tag)
  | overrun (p : Port)
  | creditExcess (p : Port)
  | portFault (p : Port)
  deriving DecidableEq, Repr

inductive MeterState
  | idle | counting | done
  deriving DecidableEq, Repr

inductive Direction
  | ingress | egress
  deriving DecidableEq, Repr

inductive Gate
  | ms1 | ms4 | ms8 | opened
  deriving DecidableEq, Repr

/-- A rate meter channel (R181). -/
structure Meter where
  state : MeterState
  port : Port
  direction : Direction
  gate : Gate
  timer : Option Time
  count : Nat
  deriving DecidableEq, Repr

def Meter.reset : Meter := ⟨.idle, 0, .ingress, .opened, none, 0⟩

/-! ### Responses and what the part sends -/

/-- The statuses of a response, in the order of section 11.3 (R154). -/
inductive Status
  | done | notSteering | held | notReady | full | empty | badArgument | meterBusy
  deriving DecidableEq, Repr

/-- A grant record as READ PORT gives it; `remaining` is in whole microseconds (R92). -/
structure GrantReport where
  tag : Tag
  cls : Cls
  target : GrantTarget
  remaining : Option Nat
  deriving DecidableEq, Repr

/-- A transmit queue entry as READ PORT gives it (R108). -/
inductive TxReport
  | unicast (src : Port) (c : Cls) (d : Dest)
  | copy (s : SlotNo)
  deriving DecidableEq, Repr

/-- The data of READ PORT, in the order of R165. -/
structure PortReport where
  link : LinkState
  presence : Bool
  goodMarks : Nat
  framingRun : Nat
  retry : Nat
  windowCount : Nat
  enable : Bool
  holdEnable : Bool
  threshold : Nat
  sticky : Bool
  credit : Nat
  inFlight : Nat
  policy : Policy
  sole : Port
  turn : Nat
  u : Nat
  ptrs : Bank 4 Port
  deliveryLength : Nat
  nextTag : Tag
  grants : List GrantReport
  bufferCount : Nat
  queue : List TxReport
  sending : Bool
  mcastQueue : List McastRequest
  delivery : List SlotNo
  deriving DecidableEq, Repr

/-- The data of IDENTIFY, in the order of R164. -/
structure IdentityReport where
  vendor : Nat
  part : Nat
  revision : Nat
  plane : Plane
  cause : StartCause
  tablesReady : Bool
  holder : Option MgmtLink
  timeout : ClaimTimeout
  window : GrantWindow
  discarded : Nat
  deriving DecidableEq, Repr

/-- The data of a response, by the rule of its command and status. -/
inductive ResponseData
  | none
  | identity (r : IdentityReport)
  | holder (h : Option MgmtLink)
  | claimed (h : Option MgmtLink) (t : ClaimTimeout)
  | refreshed (t : ClaimTimeout)
  | number (n : Nat)
  | linkState (l : LinkState)
  | port (r : PortReport)
  | staged (position entries : Nat)
  | committed (applied withdrawn : Nat)
  | staging (entries : List StagedEntry) (h : Option MgmtLink)
  | map (entries : List MapEntry)
  | group (g : Group) (e : GroupEntry)
  | requests (p : Port) (occupancy : Nat) (hold blocked : Bool) (entries : List (Dest × Cls × Nat))
  | visible (flags : EventSet)
  | events (flags mask : EventSet)
  | capture (record : Option FaultRecord) (more : Bool)
  | tallies (t : Tallies)
  | meter (state : MeterState) (p : Port) (d : Direction) (g : Gate) (count : Nat)
  | meterState (state : MeterState)
  deriving DecidableEq, Repr

/-- A response message: the code of the command answered, a status and data (R152). -/
structure Response where
  code : Byte
  status : Status
  data : ResponseData
  deriving DecidableEq, Repr

/-- One thing the part sends. A cell that was begun and has no end was abandoned (R104). -/
inductive Output
  | word (p : Port) (w : DownWord)
  | cellStart (p : Port) (x : DownCell)
  | cellEnd (p : Port)
  | response (l : MgmtLink) (r : Response)
  deriving DecidableEq, Repr

/-! ### The state -/

/-- Everything the part holds, block by block (spec/00_scope.md, Block Overview). The last four fields are the
model's own: the clock (log 1), what has been sent (log 7), the number of free values used (log 3) and the
commands that wait. -/
@[ext]
structure State where
  links : Bank 32 LinkPort
  intakes : Bank 32 Intake
  matrix : Bank 32 Row
  absorbPtr : Port
  portMap : Bank 64 MapEntry
  staging : List StagedEntry
  tablesReady : Bool
  tableInit : Option Time
  arbiters : Bank 32 Arbiter
  grantLists : Bank 32 GrantList
  grantWindow : GrantWindow
  transmit : Bank 32 Transmit
  groups : Bank 1024 GroupEntry
  mcastQueues : Bank 32 (List McastRequest)
  allocPtr : Port
  slots : Bank 64 Slot
  discardedA : Nat
  discardedB : Nat
  holder : Option MgmtLink
  claimTimer : Option Time
  claimTimeout : ClaimTimeout
  viewA : EventView
  viewB : EventView
  capture : Option FaultRecord
  moreFaults : Bool
  meters : Bank 4 Meter
  plane : Plane
  startCause : StartCause
  held : Option StartCause
  now : Time
  out : List Output
  freeCount : Nat
  pending : List Instr
  deriving DecidableEq, Repr

/-- The reasons a step can stop the machine: there are none. The manual gives every operation and event an
effect, a refusal that goes on, or no effect (INVENTORY.md, Faults). -/
inductive Fault
  deriving DecidableEq, Repr

/-- The reasons the model can refuse a command. -/
inductive Refusal
  /-- Raised by an arm of `exec` whose command has no meaning yet. No arm does. Safe: nothing is claimed. -/
  | notModelled (mnemonic : String)
  deriving DecidableEq, Repr

/-- The machine right after the full reset of power-on (R20, R43, R70, R91, R107, R132, R150, R171, R172, R177,
R179, R181), with table initialisation running. The levels of the strap and presence inputs are the model's
choice: plane 0 and every slot empty (log 5). -/
def State.reset : State where
  links := Bank.fill (LinkPort.reset false)
  intakes := Bank.fill Intake.idle
  matrix := Bank.fill Row.zero
  absorbPtr := 0
  portMap := Bank.fill MapEntry.void
  staging := []
  tablesReady := false
  tableInit := some (40 * Config.microsecond)
  arbiters := Bank.fill Arbiter.reset
  grantLists := Bank.fill GrantList.empty
  grantWindow := .us8
  transmit := Bank.fill Transmit.empty
  groups := Bank.fill GroupEntry.invalid
  mcastQueues := Bank.fill []
  allocPtr := 0
  slots := Bank.fill .free
  discardedA := 0
  discardedB := 0
  holder := none
  claimTimer := none
  claimTimeout := .ms200
  viewA := EventView.empty
  viewB := EventView.empty
  capture := none
  moreFaults := false
  meters := Bank.fill Meter.reset
  plane := 0
  startCause := .power
  held := none
  now := 0
  out := []
  freeCount := 0
  pending := []

end Sys2Proof.Machine
end

