-- ==== Sys2Proof/Machine/Flags.lean ====
section
/-! DEFINITION. Machine/Flags.lean: events and alert lines, the fault capture, and the saturating counts. -/

namespace Sys2Proof.Machine

/-! ### Event views (R172 to R174) -/

/-- The place of a kind in R173's list, which is its bit in a set (section 11.3). -/
def EventKind.index : EventKind → Nat
  | .portUp => 0
  | .portDown => 1
  | .portFaulted => 2
  | .alignLost => 3
  | .presenceChange => 4
  | .grantLapsed => 5
  | .lateCell => 6
  | .requestRefused => 7
  | .creditExcess => 8
  | .claimLapsed => 9
  | .tablesReady => 10
  | .meterDone => 11
  | .faultCaptured => 12

/-- The set that holds one kind. -/
def EventKind.only (k : EventKind) : EventSet := 1#13 <<< k.index

def EventView.raise (v : EventView) (k : EventKind) : EventView := { v with flags := v.flags ||| k.only }

/-- The flags that are also in the mask (R172). -/
def EventView.visible (v : EventView) : EventSet := v.flags &&& v.mask

/-- Raising an event sets its flag in both views (R173). -/
def State.raise (s : State) (k : EventKind) : State :=
  { s with viewA := s.viewA.raise k, viewB := s.viewB.raise k }

def State.view (s : State) : MgmtLink → EventView
  | .a => s.viewA
  | .b => s.viewB

def State.setView (s : State) (l : MgmtLink) (v : EventView) : State :=
  match l with
  | .a => { s with viewA := v }
  | .b => { s with viewB := v }

/-- The alert line of a management link: asserted while its visible flags are not empty, released while the
reset line holds the part (R174, R170). -/
def State.alert (s : State) (l : MgmtLink) : Bool := s.held.isNone && (s.view l).visible != 0

/-! ### The fault capture (R177) -/

/-- An offered fault fills an empty record and raises FAULT_CAPTURED, or sets more-faults. -/
def State.offer (s : State) (f : FaultRecord) : State :=
  match s.capture with
  | none => { s with capture := some f }.raise .faultCaptured
  | some _ => { s with moreFaults := true }

def State.offerAll (s : State) (fs : List FaultRecord) : State := fs.foldl State.offer s

/-- The offers of several blocks at one event, each block's in its own order. The manual fixes no order between
blocks; which block's first offer is taken first is a free value (log 3). -/
def State.offerGroups (s : State) (groups : List (List FaultRecord)) : State :=
  match groups.filter (fun g => !g.isEmpty) with
  | [] => s
  | [g] => s.offerAll g
  | g :: gs =>
    let k := Config.firstOffer s.freeCount % (g :: gs).length
    { s with freeCount := s.freeCount + 1 }.offerAll
      ((g :: gs).getD k [] ++ ((g :: gs).eraseIdx k).flatten)

/-! ### Tallies (R179) -/

/-- The count at which a tally stays. -/
def tallyLimit : Nat := 4294967295

def Tallies.addCellsIn (t : Tallies) : Tallies := { t with cellsIn := raiseTo tallyLimit 1 t.cellsIn }
def Tallies.addCellsOut (t : Tallies) : Tallies := { t with cellsOut := raiseTo tallyLimit 1 t.cellsOut }
/-- `k` lapses at one event are `k` counts (R79, R88). -/
def Tallies.addLapsed (t : Tallies) (k : Nat) : Tallies := { t with lapsed := raiseTo tallyLimit k t.lapsed }
def Tallies.addLate (t : Tallies) : Tallies := { t with late := raiseTo tallyLimit 1 t.late }
def Tallies.addRefused (t : Tallies) : Tallies := { t with refused := raiseTo tallyLimit 1 t.refused }
def Tallies.addCheckError (t : Tallies) : Tallies := { t with checkErrors := raiseTo tallyLimit 1 t.checkErrors }
def Tallies.addEmptyFanout (t : Tallies) : Tallies := { t with emptyFanouts := raiseTo tallyLimit 1 t.emptyFanouts }

/-! ### Rate meters and discarded messages (R181, R153) -/

/-- The count at which a meter channel stays, and a discarded-message count. -/
def shortLimit : Nat := 65535

/-- A channel counts one at an event on its port in its direction while it is COUNTING (R181). -/
def Meter.countAt (m : Meter) (d : Direction) (p : Port) : Meter :=
  if m.state = .counting ∧ m.direction = d ∧ m.port = p then { m with count := raiseTo shortLimit 1 m.count } else m

def State.countMeters (s : State) (d : Direction) (p : Port) : State :=
  { s with meters := Bank.tab fun m => (s.meters.get m).countAt d p }

def State.discarded (s : State) : MgmtLink → Nat
  | .a => s.discardedA
  | .b => s.discardedB

end Sys2Proof.Machine
end

