-- ==== Sys2Proof/Machine/Operands.lean ====
section
/-! DEFINITION. Machine/Operands.lean: the argument bytes of management commands, each with its range (section 11.3, R187).
A byte outside its range gives none, which the command answers with BAD_ARGUMENT. -/

namespace Sys2Proof.Machine

/-- A number below `n`: a port, destination, group, channel, source or turn. -/
def numArg (n v : Nat) : Option (Fin n) := if h : v < n then some ⟨v, h⟩ else none

/-- A yes or no field: 0 no, 1 yes; any other value is out of range (log 12). -/
def flagArg (b : Byte) : Option Bool :=
  match b.toNat with
  | 0 => some false
  | 1 => some true
  | _ => none

def policyArg (b : Byte) : Option Policy :=
  match b.toNat with
  | 0 => some .round
  | 1 => some .strict
  | 2 => some .classRound
  | 3 => some .sole
  | _ => none

def windowArg (b : Byte) : Option GrantWindow :=
  match b.toNat with
  | 0 => some .us2
  | 1 => some .us4
  | 2 => some .us8
  | 3 => some .us16
  | 4 => some .off
  | _ => none

def timeoutArg (b : Byte) : Option ClaimTimeout :=
  match b.toNat with
  | 0 => some .ms10
  | 1 => some .ms50
  | 2 => some .ms200
  | 3 => some .ms1000
  | _ => none

def directionArg (b : Byte) : Option Direction :=
  match b.toNat with
  | 0 => some .ingress
  | 1 => some .egress
  | _ => none

def gateArg (b : Byte) : Option Gate :=
  match b.toNat with
  | 0 => some .ms1
  | 1 => some .ms4
  | 2 => some .ms8
  | 3 => some .opened
  | _ => none

/-- The state and port of a STAGE MAP. The port is ignored for VOID; 255 is an absent port and, like every value
above 31, is refused for PARKED and ACTIVE (R29, R30). -/
def mappingArg (state port : Byte) : Option Mapping :=
  match state.toNat with
  | 0 => some .void
  | 1 => (numArg 32 port.toNat).map .parked
  | 2 => (numArg 32 port.toNat).map .active
  | _ => none

/-- A set of event kinds; bits 13 to 15 name no kind (R175, R176). -/
def kindsArg (w : BitVec 16) : Option EventSet := if w.toNat < 2 ^ 13 then some (w.setWidth 13) else none

/-- A member list of at most 64 destinations, each recorded once (R110, R111). -/
def membersArg (ms : List Byte) : Option (List Dest) :=
  if ms.length ≤ 64 ∧ ms.all (fun b => b.toNat < 64) then
    some ((List.finRange 64).filter fun d => ms.any fun b => b.toNat == d.val)
  else none

/-- The settings a SET PORT carries for its port (R148, R64). -/
structure PortSettings where
  enable : Bool
  holdEnable : Bool
  policy : Policy
  sole : Port
  turn : Nat
  threshold : Nat
  deriving DecidableEq, Repr

/-- The fields of a SET PORT, refused as a whole when one is out of range (R64, R148, R166). -/
def settingsArg (enable hold policy sole turn threshold : Byte) : Option PortSettings := do
  let e ← flagArg enable
  let h ← flagArg hold
  let pol ← policyArg policy
  let src ← numArg 32 sole.toNat
  let k ← numArg 16 turn.toNat
  if threshold.toNat = 0 then none else some ⟨e, h, pol, src, k.val, threshold.toNat⟩

/-! ### Times of the settings (R74, R157, R181) -/

/-- The grant window in clock periods; none when OFF. -/
def GrantWindow.time : GrantWindow → Option Time
  | .us2 => some (2 * Config.microsecond)
  | .us4 => some (4 * Config.microsecond)
  | .us8 => some (8 * Config.microsecond)
  | .us16 => some (16 * Config.microsecond)
  | .off => none

def ClaimTimeout.time : ClaimTimeout → Time
  | .ms10 => 10 * Config.millisecond
  | .ms50 => 50 * Config.millisecond
  | .ms200 => 200 * Config.millisecond
  | .ms1000 => 1000 * Config.millisecond

/-- The gate of a meter in clock periods; none when OPEN. -/
def Gate.time : Gate → Option Time
  | .ms1 => some (1 * Config.millisecond)
  | .ms4 => some (4 * Config.millisecond)
  | .ms8 => some (8 * Config.millisecond)
  | .opened => none

end Sys2Proof.Machine
end

