-- ==== Sys2Proof/Machine/Ops.lean ====
section
/-! DEFINITION. Machine/Ops.lean: the named operations over the blocks of the part, which the commands are written with. -/

namespace Sys2Proof.Machine

/-! ### Reads and updates of one block -/

def State.link (s : State) (p : Port) : LinkState := (s.links.get p).link

def State.isUp (s : State) (p : Port) : Bool := decide (s.link p = .up)

def State.updLink (s : State) (p : Port) (f : LinkPort → LinkPort) : State := { s with links := s.links.upd p f }

def State.updIntake (s : State) (p : Port) (f : Intake → Intake) : State := { s with intakes := s.intakes.upd p f }

def State.updArb (s : State) (j : Port) (f : Arbiter → Arbiter) : State := { s with arbiters := s.arbiters.upd j f }

def State.updGrants (s : State) (i : Port) (f : GrantList → GrantList) : State :=
  { s with grantLists := s.grantLists.upd i f }

def State.updTx (s : State) (j : Port) (f : Transmit → Transmit) : State := { s with transmit := s.transmit.upd j f }

def State.updEntry (s : State) (d : Dest) (f : MapEntry → MapEntry) : State := { s with portMap := s.portMap.upd d f }

def State.updSlot (s : State) (k : SlotNo) (f : Slot → Slot) : State := { s with slots := s.slots.upd k f }

/-- The Request Matrix count of ingress `i` toward `d` in class `c` (R16). -/
def State.count (s : State) (i : Port) (d : Dest) (c : Cls) : Nat := ((s.matrix.get i).get d).get c

def State.setCount (s : State) (i : Port) (d : Dest) (c : Cls) (n : Nat) : State :=
  { s with matrix := s.matrix.upd i fun row => row.upd d fun cs => cs.set c n }

/-- The records of a grant list, oldest first. -/
def State.records (s : State) (i : Port) : List GrantRecord := (s.grantLists.get i).records

/-- Port Map entry `d` as every block reads it: VOID while table initialisation runs (R39). -/
def State.mapEntry (s : State) (d : Dest) : MapEntry := if s.tablesReady then s.portMap.get d else MapEntry.void

/-- Group Table entry `g` as every block reads it: invalid while table initialisation runs (R39). -/
def State.groupEntry (s : State) (g : Group) : GroupEntry := if s.tablesReady then s.groups.get g else GroupEntry.invalid

/-! ### What the part sends -/

def State.emit (s : State) (o : Output) : State := { s with out := s.out ++ [o] }

/-- A response, sent on the link its command came on at the command's event (R152, log 7). -/
def State.respond (s : State) (l : MgmtLink) (code : Byte) (status : Status) (data : ResponseData) : State :=
  s.emit (.response l ⟨code, status, data⟩)

/-- A downstream control word generated for an UP port waits behind the words generated before it (R10, R100);
for a port that is not UP nothing waits to be sent (R143, log 11). -/
def State.sendWord (s : State) (p : Port) (w : DownWord) : State :=
  if s.isUp p then s.updTx p fun t => { t with words := t.words ++ [w] } else s

/-- The fill of a transmitter that has nothing else to send (R100, R143): MARK in ALIGNING and EXCHANGE, and in UP
while no control word and no cell waits and none is in transmission; nothing in the other states and while the reset
line is asserted (R170). -/
def State.fillWord (s : State) (p : Port) : Option DownWord :=
  if s.held.isSome then none else
  match s.link p with
  | .aligning | .exchange => some .mark
  | .up =>
    let t := s.transmit.get p
    if t.words.isEmpty && t.queue.isEmpty && !t.sending then some .mark else none
  | .off | .dark | .faulted => none

/-! ### Time -/

/-- The arrival of time `due`: the clock reads at least that (log 2). -/
def State.arrive (s : State) (due : Time) : State := { s with now := max s.now due }

/-- A command's effect on a part that runs. While the reset line is asserted the part takes nothing (R170). -/
def whenRunning (s : State) (f : State → State) : Host.Outcome State Fault Refusal :=
  .next (if s.held.isSome then s else f s)

/-! ### Grant records: placing, returning, lapsing (R72 to R79) -/

def GrantTarget.item : GrantTarget → CastItem
  | .unicast d _ => .unicast d
  | .multicast g _ => .multicast g

/-- Whether a record is UNICAST and names `j` as its physical port. -/
def GrantRecord.naming (r : GrantRecord) (j : Port) : Bool :=
  match r.target with
  | .unicast _ j' => j' = j
  | .multicast _ _ => false

/-- Whether a record is UNICAST and names destination `d`. -/
def GrantRecord.toward (r : GrantRecord) (d : Dest) : Bool :=
  match r.target with
  | .unicast d' _ => d' = d
  | .multicast _ _ => false

/-- Whether a record is MULTICAST and names slot `k`. -/
def GrantRecord.reserves (r : GrantRecord) (k : SlotNo) : Bool :=
  match r.target with
  | .unicast _ _ => false
  | .multicast _ k' => k' = k

/-- RESERVED to FREE (R78). -/
def Slot.unreserve : Slot → Slot
  | .reserved _ _ _ => .free
  | .free => .free
  | .filled src g c x refs => .filled src g c x refs

/-- Credit given back for one record, stopping at the buffer count (R46, R77), and its place in flight. -/
def Arbiter.giveBack (a : Arbiter) (bufferCount : Nat) : Arbiter :=
  { a with credit := min bufferCount (a.credit + 1), inFlight := a.inFlight - 1 }

/-- What a record held is returned (R77, R78). -/
def State.returnGrant (s : State) (r : GrantRecord) : State :=
  match r.target with
  | .unicast d j =>
    (s.updArb j fun a => a.giveBack (s.links.get j).bufferCount).updEntry d fun e => { e with drain := e.drain - 1 }
  | .multicast _ k => s.updSlot k Slot.unreserve

/-- The record with a tag leaves the list; the others keep their order (R71). -/
def GrantList.remove (g : GrantList) (t : Tag) : GrantList :=
  { g with records := g.records.eraseP fun r => r.tag = t }

def lapseFault (i : Port) (r : GrantRecord) : FaultRecord := .lapse i r.tag r.target.item r.cls

def lapsedWord (r : GrantRecord) : DownWord := .lapsed r.tag r.cls r.target.item

/-- The lapse of one record (R76): it leaves the list, what it held is returned (R77, R78), it is accounted
(R79), and LAPSED is sent. -/
def State.lapse (s : State) (i : Port) (r : GrantRecord) : State :=
  (((((s.updGrants i fun g => g.remove r.tag).returnGrant r).updLink i fun l =>
    { l with tallies := l.tallies.addLapsed 1 }).raise .grantLapsed).offer (lapseFault i r)).sendWord i (lapsedWord r)

/-- A new record at the tail of a list with the list's next tag and the grant window in force; an older record
that carries this tag lapses first; GRANT is generated (R58, R73, R119). -/
def State.placeRecord (s : State) (i : Port) (target : GrantTarget) (c : Cls) : State :=
  let tag := (s.grantLists.get i).nextTag
  let s1 := match (s.records i).find? fun r => r.tag = tag with
    | some old => s.lapse i old
    | none => s
  (s1.updGrants i fun g =>
    { records := g.records ++ [⟨tag, c, target, s.grantWindow.time.map (s.now + ·)⟩], nextTag := tag + 1 }).sendWord i
      (.grant tag c target.item)

/-- A place on a list is taken while its port is UP and the list holds fewer than 4 records (R57, R119). -/
def State.placeOpen (s : State) (i : Port) : Bool := s.isUp i && (s.records i).length < 4

/-! ### References of slots (R127) -/

/-- A port leaves a FILLED slot's reference set; the slot is FREE when the set is then empty. -/
def Slot.release (x : Slot) (j : Port) : Slot :=
  match x with
  | .filled src g c content refs =>
    match refs.filter (· ≠ j) with
    | [] => .free
    | r :: rs => .filled src g c content (r :: rs)
  | .free => .free
  | .reserved src g c => .reserved src g c

def TxEntry.isCopyOf (k : SlotNo) : TxEntry → Bool
  | .copy k' => k' = k
  | .unicast _ _ _ _ => false

/-- Whether an entry is a unicast cell for destination `d`. -/
def TxEntry.isToward (d : Dest) : TxEntry → Bool
  | .unicast _ _ d' _ => d' = d
  | .copy _ => false

/-! ### Teardown (R147), block by block -/

/-- The records that teardown of `j` lapses on the list of ingress `i` (R88): those of other ports that name `j`. -/
def State.lapsing (s : State) (j i : Port) : List GrantRecord :=
  if i = j then [] else (s.records i).filter (·.naming j)

/-- The fault offers of teardown of `j`, one group for each list (R79, R88). -/
def State.lapseOffers (s : State) (j : Port) : List (List FaultRecord) :=
  (List.finRange 32).map fun i => (s.lapsing j i).map (lapseFault i)

/-- The fall of the drain count of `d` at teardown of `j`: the records on j's own list (R87), the records that
lapse on other lists (R88), and the flushed unicast cells (R104). -/
def State.drainLoss (s : State) (j : Port) (d : Dest) : Nat :=
  (s.records j).countP (·.toward d)
    + ((List.finRange 32).map fun i => (s.lapsing j i).countP (·.toward d)).sum
    + (s.transmit.get j).queue.countP (TxEntry.isToward d)

/-- The slot `k` after teardown of `j`: a slot reserved by a record on j's own list is FREE (R78, R87, R129); a
slot in one of j's queues loses j (R67, R104, R130). -/
def State.tornSlot (s : State) (j : Port) (k : SlotNo) : Slot :=
  let x := s.slots.get k
  let x := if (s.records j).any (·.reserves k) then x.unreserve else x
  if (s.arbiters.get j).delivery.contains k || (s.transmit.get j).queue.any (TxEntry.isCopyOf k) then x.release j else x

/-- The arbiter of `k` after teardown of `j`: j's own is idle (R67); the others are given back the records of
j's list that name them (R68, R87). -/
def State.tornArbiter (s : State) (j k : Port) : Arbiter :=
  let a := s.arbiters.get k
  if k = j then a.idle
  else
    let n := (s.records j).countP (·.naming k)
    { a with
      credit := if n = 0 then a.credit else min (s.links.get k).bufferCount (a.credit + n)
      inFlight := a.inFlight - n }

/-- The transmit stage of `i` after teardown of `j`: j's is emptied and its unsent words dropped (R104, R143); an
UP ingress whose records lapse is sent LAPSED for each, in list order (R88). -/
def State.tornTransmit (s : State) (j i : Port) : Transmit :=
  if i = j then Transmit.empty
  else
    let t := s.transmit.get i
    if s.isUp i then { t with words := t.words ++ (s.lapsing j i).map lapsedWord } else t

/-- Teardown of port `j`: every effect of R147 on scheduling state, at one event. The link state and the fault
offers are applied by the cause of the teardown. -/
def State.teardown (s : State) (j : Port) : State :=
  let t : State := { s with
    links := Bank.tab fun i =>
      let l := s.links.get i
      if i = j then { l with bufferCount := 0 }
      else { l with tallies := l.tallies.addLapsed (s.lapsing j i).length }
    intakes := s.intakes.set j Intake.idle
    matrix := s.matrix.set j Row.zero
    portMap := Bank.tab fun d => { s.portMap.get d with drain := (s.portMap.get d).drain - s.drainLoss j d }
    arbiters := Bank.tab fun k => s.tornArbiter j k
    grantLists := Bank.tab fun i =>
      if i = j then GrantList.empty
      else { s.grantLists.get i with records := (s.records i).filter (fun r => !r.naming j) }
    transmit := Bank.tab fun i => s.tornTransmit j i
    mcastQueues := s.mcastQueues.set j []
    slots := Bank.tab fun k => s.tornSlot j k }
  if (List.finRange 32).any (fun i => !(s.lapsing j i).isEmpty) then t.raise .grantLapsed else t

/-! ### Transitions of a link port (chapter 7) -/

/-- OFF: timers stopped, runs, retry count and window count 0 (R136). -/
def LinkPort.toOff (l : LinkPort) : LinkPort :=
  { l with
    link := .off, goodMarks := 0, framingRun := 0, exchangeTimer := none, retry := 0, window := none, windowCount := 0 }

/-- DARK, at presence loss (R135). -/
def LinkPort.toDark (l : LinkPort) : LinkPort := { l.toOff with link := .dark }

/-- ALIGNING, at loss of alignment: both stickies set, the retry count kept (R138). -/
def LinkPort.loseAlignment (l : LinkPort) : LinkPort :=
  { l with
    link := .aligning, goodMarks := 0, framingRun := 0, exchangeTimer := none, window := none, windowCount := 0,
    stickyA := true, stickyB := true }

/-- ALIGNING with good-mark run 0, from OFF or DARK (R135, R136). -/
def LinkPort.toAligning (l : LinkPort) : LinkPort := { l with link := .aligning, goodMarks := 0 }

/-- FAULTED: timers stopped, window count and framing-failure run 0, the retry count kept (R146). -/
def LinkPort.toFaulted (l : LinkPort) : LinkPort :=
  { l with link := .faulted, framingRun := 0, exchangeTimer := none, window := none, windowCount := 0 }

/-- The duration of an identity exchange timer and of a check-error window (R139, R144). -/
def linkPeriod : Time := 10 * Config.millisecond

/-- EXCHANGE: exchange timer and check-error window started (R139). -/
def LinkPort.toExchange (now : Time) (l : LinkPort) : LinkPort :=
  { l with
    link := .exchange, goodMarks := 0, framingRun := 0, exchangeTimer := some (now + linkPeriod),
    window := some (now + linkPeriod), windowCount := 0 }

/-- UP with an announced buffer count: exchange timer stopped, retry count 0, window restarted (R93, R141). -/
def LinkPort.toUp (now : Time) (n : Nat) (l : LinkPort) : LinkPort :=
  { l with
    link := .up, bufferCount := n, framingRun := 0, exchangeTimer := none, retry := 0,
    window := some (now + linkPeriod), windowCount := 0 }

/-- A port leaves UP: teardown, PORT_DOWN, the change `f` of its link port, and the offers of the lapses (R147). -/
def State.leaveUp (s : State) (p : Port) (f : LinkPort → LinkPort) : State :=
  (((s.teardown p).updLink p f).raise .portDown).offerGroups (s.lapseOffers p)

/-- HELLO {plane, port}, sent on entry to EXCHANGE and at each retry (R139, R140, log 8). -/
def State.sendHello (s : State) (p : Port) : State := s.emit (.word p (.hello s.plane p))

/-- Entry to EXCHANGE (R139). -/
def State.enterExchange (s : State) (p : Port) : State :=
  (s.updLink p (LinkPort.toExchange s.now)).sendHello p

/-- Entry to UP on an accepted HELLO (R94, R95, R141). -/
def State.enterUp (s : State) (p : Port) (n : Nat) : State :=
  ((s.updLink p (LinkPort.toUp s.now n)).updArb p fun a => { a with credit := n }).raise .portUp

/-- Entry to FAULTED from EXCHANGE or UP (R145, R146). The order of the PORT_FAULT offer and the offers of the
lapses is open (log 3). -/
def State.enterFaulted (s : State) (p : Port) : State :=
  if s.isUp p then
    ((((s.teardown p).updLink p LinkPort.toFaulted).raise .portDown).raise .portFaulted).offerGroups
      (s.lapseOffers p ++ [[.portFault p]])
  else ((s.updLink p LinkPort.toFaulted).raise .portFaulted).offer (.portFault p)

/-- A check error is counted in the tally and, while the window runs, in the window (R134, R144). -/
def LinkPort.countError (l : LinkPort) : LinkPort :=
  { l with
    tallies := l.tallies.addCheckError
    windowCount := if l.window.isSome then l.windowCount + 1 else l.windowCount }

/-- A check error on a port in EXCHANGE or UP: counted, and tested against the fault threshold (R144, R145). -/
def State.checkError (s : State) (p : Port) : State :=
  let s1 := s.updLink p LinkPort.countError
  if (s1.links.get p).threshold ≤ (s1.links.get p).windowCount then s1.enterFaulted p else s1

/-- A well-framed word or cell arrives (R137, R138, R142): not received in OFF, DARK and FAULTED, used for
alignment only in ALIGNING; in EXCHANGE and UP it ends the framing-failure run and is taken. -/
def State.receive (s : State) (p : Port) (inExchange inUp : State → State) : State :=
  match s.link p with
  | .off | .dark | .faulted => s
  | .aligning => s.updLink p fun l => { l with goodMarks := 0 }
  | .exchange => inExchange (s.updLink p fun l => { l with framingRun := 0 })
  | .up => inUp (s.updLink p fun l => { l with framingRun := 0 })

/-! ### Refusals of request words (R14) -/

/-- The accounting of every refusal: the refused tally and REQUEST_REFUSED. -/
def State.accountRefusal (s : State) (p : Port) : State :=
  (s.updLink p fun l => { l with tallies := l.tallies.addRefused }).raise .requestRefused

/-! ### Full reset (R170) -/

/-- The values every block holds from the start of a full reset; the model's clock, record of what was sent,
free-value count and waiting commands go on. -/
def State.fullReset (s : State) (cause : StartCause) (strap : Plane) : State :=
  { State.reset with
    links := Bank.tab fun p => LinkPort.reset (s.links.get p).presence
    tableInit := some (s.now + 40 * Config.microsecond)
    plane := strap
    startCause := cause
    now := s.now
    out := s.out
    freeCount := s.freeCount
    pending := s.pending }

/-- The part held in reset: every operation abandoned, nothing running (R170, log 6). The plane number, the start
record and the presence items are taken at the release. -/
def State.holdReset (s : State) (cause : StartCause) : State :=
  { s.fullReset s.startCause s.plane with tableInit := none, held := some cause }

/-! ### Steering (R155, R156) -/

/-- A mutating command is checked against steering at the event of its effect. -/
def State.mutating (s : State) (l : MgmtLink) (code : Byte) (f : State → State) : State :=
  if s.holder = some l then f s else s.respond l code .notSteering .none

/-- The holder becomes NONE, the timer stops and the staging list is emptied (R160, R161). -/
def State.dropSteering (s : State) : State := { s with holder := none, claimTimer := none, staging := [] }

/-- The claim timer is started or restarted with the claim timeout in force (R158, R159). -/
def State.startClaim (s : State) (l : MgmtLink) : State :=
  { s with holder := some l, claimTimer := some (s.now + s.claimTimeout.time) }

end Sys2Proof.Machine
end

