-- ==== Sys2Proof/Machine/Arbitration.lean ====
section
/-! DEFINITION. Machine/Arbitration.lean: the egress arbiters, CREDIT and the multicast allocator (chapters 3, 5, 6). -/

namespace Sys2Proof.Machine

/-- The arbiter of `j` is eligible (R47). -/
def State.eligible (s : State) (j : Port) : Bool :=
  s.isUp j && (1 ≤ (s.arbiters.get j).credit : Bool) && ((s.arbiters.get j).inFlight < 8 : Bool)

/-- Ingress `i` may be a candidate of the arbiter of `j` at all: it is UP, its list has room, and under SOLE it is
the sole source (R48). -/
def State.ingressOpen (s : State) (j i : Port) : Bool :=
  s.placeOpen i && (decide ((s.arbiters.get j).policy ≠ .sole) || decide ((s.arbiters.get j).sole = i))

/-- (`i`, `d`, `c`) is a unicast candidate of the arbiter of `j` (R48). -/
def State.isCandidate (s : State) (j i : Port) (d : Dest) (c : Cls) : Bool :=
  s.ingressOpen j i && decide ((s.mapEntry d).map = .active j) && decide (1 ≤ s.count i d c)

/-- The lowest destination of ingress `i` with a candidate in class `c`. -/
def State.lowestDest (s : State) (j i : Port) (c : Cls) : Option Candidate :=
  ((List.finRange 64).find? fun d => s.isCandidate j i d c).map fun d => ⟨i, d, c⟩

/-- The lowest class of ingress `i`, and within it the lowest destination. -/
def State.lowestClass (s : State) (j i : Port) : Option Candidate :=
  (List.finRange 4).findSome? fun c => s.lowestDest j i c

/-- The unicast candidate that the policy of `j` takes (R52 to R55). -/
def State.policyChoice (s : State) (j : Port) : Option Candidate :=
  let a := s.arbiters.get j
  match a.policy with
  | .round => (cyclic (a.ptrs.get 0)).findSome? fun i => s.lowestClass j i
  | .strict => (List.finRange 4).findSome? fun c => (List.finRange 32).findSome? fun i => s.lowestDest j i c
  | .classRound => (List.finRange 4).findSome? fun c => (cyclic (a.ptrs.get c)).findSome? fun i => s.lowestDest j i c
  | .sole => s.lowestClass j a.sole

/-- What one decision of the arbiter of `j` is (R50). -/
inductive Decision
  | none
  | deliver (k : SlotNo)
  | grant (x : Candidate)
  deriving DecidableEq, Repr

/-- The decision of R50's table, for an eligible arbiter; none while it is not eligible (R47). -/
def State.decision (s : State) (j : Port) : Decision :=
  if !s.eligible j then .none
  else
    let a := s.arbiters.get j
    match a.delivery, s.policyChoice j with
    | [], none => .none
    | [], some x => .grant x
    | k :: _, none => .deliver k
    | k :: _, some x => if a.turn ≤ a.u then .deliver k else .grant x

/-! ### The unicast grant decision (R57 to R59) -/

/-- The claim on one count at the Request Matrix (R16). -/
def State.claimCount (s : State) (x : Candidate) : Option State :=
  let n := s.count x.ingress x.dest x.cls
  if 1 ≤ n then some (s.setCount x.ingress x.dest x.cls (n - 1)) else none

/-- The claim on entry D at the Port Map (R25). -/
def State.claimEntry (s : State) (j : Port) (x : Candidate) : Option State :=
  if (s.mapEntry x.dest).map = .active j then some (s.updEntry x.dest fun e => { e with drain := e.drain + 1 })
  else none

/-- The three claims of a decision, in order. When one is refused none is kept: those taken before it are
returned at the same event, and the net change at every owner is none (R57). -/
def State.presentClaims (s : State) (j : Port) (x : Candidate) : Option State := do
  let s1 ← s.claimCount x
  let s2 ← s1.claimEntry j x
  if s2.placeOpen x.ingress then some s2 else none

/-- The pointer that a grant moves, under the policies that move one (R52 to R56). -/
def Arbiter.advance (a : Arbiter) (x : Candidate) : Bank 4 Port :=
  match a.policy with
  | .round => a.ptrs.set 0 (x.ingress + 1)
  | .classRound => a.ptrs.set x.cls (x.ingress + 1)
  | .strict | .sole => a.ptrs

/-- The arbiter's own changes at a unicast grant (R58, R51). -/
def Arbiter.granted (a : Arbiter) (x : Candidate) : Arbiter :=
  { a with credit := a.credit - 1, inFlight := a.inFlight + 1, u := raiseTo 15 1 a.u, ptrs := a.advance x }

/-- The grant whose claims are presented: made whole, or not at all (R57, R58). -/
def State.grantUnicast (s : State) (j : Port) (x : Candidate) : State :=
  match s.presentClaims j x with
  | some s1 => (s1.placeRecord x.ingress (.unicast x.dest j) x.cls).updArb j fun a => a.granted x
  | none => s

/-- A delivery of the head slot (R61). -/
def State.deliver (s : State) (j : Port) (k : SlotNo) : State :=
  (s.updArb j fun a =>
    { a with credit := a.credit - 1, inFlight := a.inFlight + 1, u := 0, delivery := a.delivery.tail }).updTx j fun t =>
      { t with queue := t.queue ++ [.copy k] }

/-- The arbiter decides on the state as it stands, a grant or a delivery (R50, R59). -/
def State.decideAfresh (s : State) (j : Port) : State :=
  match s.decision j with
  | .none => s
  | .deliver k => s.deliver j k
  | .grant x => s.grantUnicast j x

/-- UNICAST_GRANT_DECISION of the arbiter of `j` (R50, R57 to R60). With no candidate given, the arbiter reads the
state at this event. A candidate that it had chosen earlier presents its claims at this event: when one is
refused the decision has no effect and the arbiter decides afresh, which may be a delivery (R50, R59); when none is,
the decision is the one the rules give at its event (log 10). -/
def execUnicastGrantDecision (j : Port) (chosen : Option Candidate) (s : State) : Host.Outcome State Fault Refusal :=
  whenRunning s fun s =>
    let refused := match chosen with
      | some x => (s.presentClaims j x).isNone
      | none => false
    if refused then s.decideAfresh j
    else
      match s.decision j with
      | .grant x => s.grantUnicast j x
      | .none | .deliver _ => s

/-- DELIVERY_DECISION of the arbiter of `j` (R50, R61). -/
def execDeliveryDecision (j : Port) (s : State) : Host.Outcome State Fault Refusal :=
  whenRunning s fun s =>
    match s.decision j with
    | .deliver k => s.deliver j k
    | .none | .grant _ => s

/-- A credit return taken on an UP port, clipped at the buffer count (R96). -/
def State.takeCredit (s : State) (p : Port) (n : Nat) : State :=
  let limit := (s.links.get p).bufferCount
  if limit < (s.arbiters.get p).credit + n then
    ((s.updArb p fun a => { a with credit := limit }).raise .creditExcess).offer (.creditExcess p)
  else s.updArb p fun a => { a with credit := a.credit + n }

/-- CREDIT (R96): a count of 0 or above 16 is a check error. -/
def execCredit (p : Port) (n : Fin 32) (s : State) : Host.Outcome State Fault Refusal :=
  whenRunning s fun s =>
    s.receive p id fun s => if n.val = 0 ∨ 16 < n.val then s.checkError p else s.takeCredit p n.val

/-! ### The multicast allocator (R117 to R120) -/

/-- Ingress `i` is a candidate of the allocator (R117). -/
def State.mcastCandidate (s : State) (i : Port) : Bool := s.placeOpen i && !(s.mcastQueues.get i).isEmpty

/-- The first candidate in cyclic order from the rotation pointer (R118). -/
def State.allocIngress (s : State) : Option Port := (cyclic s.allocPtr).find? s.mcastCandidate

/-- The lowest-numbered FREE slot (R118). -/
def State.freeSlot (s : State) : Option SlotNo := (List.finRange 64).find? fun k => decide (s.slots.get k = .free)

/-- The effects of a decision of the allocator for ingress `i`, its head record `q` and slot `k` (R119). -/
def State.grantMulticast (s : State) (i : Port) (q : McastRequest) (k : SlotNo) : State :=
  ({ s with
    mcastQueues := s.mcastQueues.upd i List.tail
    slots := s.slots.set k (.reserved i q.group q.cls)
    allocPtr := i + 1 }).placeRecord i (.multicast q.group k) q.cls

/-- ALLOCATOR_DECISION (R117 to R120). The choice and the claim are one event, so a claim that another decision
took first shows as an ingress that is no candidate (log 10). -/
def execAllocatorDecision (s : State) : Host.Outcome State Fault Refusal :=
  whenRunning s fun s =>
    match s.allocIngress, s.freeSlot with
    | some i, some k =>
      match (s.mcastQueues.get i) with
      | q :: _ => s.grantMulticast i q k
      | [] => s
    | _, _ => s

end Sys2Proof.Machine
end

