-- ==== Sys2Proof/Machine/Cells.lean ====
section
/-! DEFINITION. Machine/Cells.lean: arriving cells, the fill of a slot, and the expiry of a grant record (chapters 4, 6). -/

namespace Sys2Proof.Machine

/-- The content of a cell that is carried through (R82, R83). -/
def carried (x : UpCell) : CellContent :=
  ⟨x.first, x.last, x.length.val, x.flow, x.payload.take x.length.val⟩

/-- Fanout resolution of group `g` with source `src`, in the four steps of R124. -/
def State.fanout (s : State) (g : Group) (src : Port) : List Port :=
  let e := s.groupEntry g
  let members := if e.valid then e.members else []
  let mapped := (List.finRange 32).filter fun p => members.any fun d => decide ((s.mapEntry d).map = .active p)
  let pruned := if e.prune then mapped.filter (· ≠ src) else mapped
  pruned.filter s.isUp

/-- The source, group and class that slot `k` takes at its fill: those of its reservation, which agree with the
record that names it (R83). -/
def State.reservation (s : State) (k : SlotNo) (i : Port) (g : Group) (c : Cls) : Port × Group × Cls :=
  match s.slots.get k with
  | .reserved src g' c' => (src, g', c')
  | .free | .filled _ _ _ _ _ => (i, g, c)

/-- The fill of slot `k` by a cell matched to the MULTICAST record (`i`, `g`, `c`) that names it (R123 to R126). -/
def State.fillSlot (s : State) (i : Port) (g : Group) (c : Cls) (k : SlotNo) (x : CellContent) : State :=
  let (src, g', c') := s.reservation k i g c
  match s.fanout g' src with
  | [] =>
    (s.updSlot k fun _ => .free).updLink src fun l => { l with tallies := l.tallies.addEmptyFanout }
  | p :: ps =>
    { s with
      slots := s.slots.set k (.filled src g' c' x (p :: ps))
      arbiters := Bank.tab fun j =>
        let a := s.arbiters.get j
        if j ∈ p :: ps then { a with delivery := a.delivery ++ [k] } else a }

/-- The hand-off of a matched cell (R82, R83). -/
def State.handOff (s : State) (i : Port) (r : GrantRecord) (x : CellContent) : State :=
  match r.target with
  | .unicast d j => s.updTx j fun t => { t with queue := t.queue ++ [.unicast i r.cls d x] }
  | .multicast g k => s.fillSlot i g r.cls k x

/-- The match of a cell to record `r`, with the records `earlier` before it on the list (R81). Every one of them
lapses, also after a tag-reuse lapse, of which R85 says that the cell skips nothing between the old record and the new
one: the records that were placed between the two stand before the new one and lapse (log 24). -/
def State.matchCell (s : State) (i : Port) (earlier : List GrantRecord) (r : GrantRecord) (x : UpCell) : State :=
  let s1 := earlier.foldl (fun s r => s.lapse i r) s
  let s2 := s1.updGrants i fun g => g.remove r.tag
  let s3 := s2.updLink i fun l => { l with tallies := l.tallies.addCellsIn }
  (s3.countMeters .ingress i).handOff i r (carried x)

/-- A LATE cell (R84). -/
def State.lateCell (s : State) (i : Port) (tag : Tag) : State :=
  ((s.updLink i fun l => { l with tallies := l.tallies.addLate }).raise .lateCell).offer (.late i tag)

/-- A cell offered to the grant list of ingress `i` (R81, R84). -/
def State.offerCell (s : State) (i : Port) (x : UpCell) : State :=
  match (s.records i).dropWhile fun r => r.tag ≠ x.tag with
  | r :: _ => s.matchCell i ((s.records i).takeWhile fun r => r.tag ≠ x.tag) r x
  | [] => s.lateCell i x.tag

/-- CELL with a good check (R80): in UP a payload length of 0 or above 128 is a check error; in EXCHANGE the cell
is discarded. -/
def execCell (p : Port) (x : UpCell) (s : State) : Host.Outcome State Fault Refusal :=
  whenRunning s fun s =>
    s.receive p id fun s => if x.length.val = 0 ∨ 128 < x.length.val then s.checkError p else s.offerCell p x

/-- GRANT_EXPIRY of the record of `p` with this tag that expires at `due`; a record that has left the list has no
expiry (R76). -/
def execGrantExpiry (p : Port) (tag : Tag) (due : Time) (s : State) : Host.Outcome State Fault Refusal :=
  whenRunning s fun s =>
    match (s.records p).find? fun r => r.tag = tag with
    | some r => if r.expiry = some due then (s.arrive due).lapse p r else s
    | none => s

end Sys2Proof.Machine
end

