-- ==== Sys2Proof/Machine/GroupCommands.lean ====
section
/-! DEFINITION. Machine/GroupCommands.lean: the Group Table commands and READ REQUESTS (chapters 6 and 1). -/

namespace Sys2Proof.Machine

/-- WRITE_GROUP (R110, R111). -/
def execWriteGroup (l : MgmtLink) (g : BitVec 16) (valid prune : Byte) (members : List Byte) (s : State) :
    Host.Outcome State Fault Refusal :=
  whenRunning s fun s => s.mutating l 14 fun s =>
    if !s.tablesReady then s.respond l 14 .notReady .none
    else
      match numArg 1024 g.toNat, flagArg valid, flagArg prune, membersArg members with
      | some k, some v, some pr, some ds =>
        { s with groups := s.groups.set k ⟨v, ds, pr⟩ }.respond l 14 .done (.number ds.length)
      | _, _, _, _ => s.respond l 14 .badArgument .none

/-- READ_GROUP (R112). -/
def execReadGroup (l : MgmtLink) (g : BitVec 16) (s : State) : Host.Outcome State Fault Refusal :=
  whenRunning s fun s =>
    if !s.tablesReady then s.respond l 15 .notReady .none
    else
      match numArg 1024 g.toNat with
      | some k => s.respond l 15 .done (.group k (s.groups.get k))
      | none => s.respond l 15 .badArgument .none

/-- The non-zero counts of a row, in ascending order of destination and then of class (R21). -/
def State.rowEntries (s : State) (p : Port) : List (Dest × Cls × Nat) :=
  (List.finRange 64).flatMap fun d => (List.finRange 4).filterMap fun c =>
    if s.count p d c = 0 then none else some (d, c, s.count p d c)

/-- READ_REQUESTS (R21). -/
def execReadRequests (l : MgmtLink) (port : Byte) (s : State) : Host.Outcome State Fault Refusal :=
  whenRunning s fun s =>
    match numArg 32 port.toNat with
    | some p =>
      let q := s.intakes.get p
      s.respond l 16 .done (.requests p q.queue.length q.hold q.blocked (s.rowEntries p))
    | none => s.respond l 16 .badArgument .none

end Sys2Proof.Machine
end

