-- ==== Sys2Proof/Machine/LinkPorts.lean ====
section
/-! DEFINITION. Machine/LinkPorts.lean: presence, alignment, the identity exchange and check errors (chapter 7). -/

namespace Sys2Proof.Machine

/-- The change of the link state at a presence change (table of R135). -/
def State.presenceMove (s : State) (p : Port) (present : Bool) : State :=
  match s.link p, present with
  | .dark, true => s.updLink p LinkPort.toAligning
  | .aligning, false | .exchange, false => s.updLink p LinkPort.toDark
  | .up, false => s.leaveUp p LinkPort.toDark
  | _, _ => s

/-- PRESENCE_CHANGE (R135). A level equal to the one last taken is no change of the input (log 9). While the
part is held in reset the level is only kept for the release (R170). -/
def execPresenceChange (p : Port) (present : Bool) (s : State) : Host.Outcome State Fault Refusal :=
  .next (
    if (s.links.get p).presence = present then s
    else
      let s1 := s.updLink p fun l => { l with presence := present }
      if s.held.isSome then s1 else (s1.raise .presenceChange).presenceMove p present)

/-- A well-framed MARK with good check in ALIGNING; the sixteenth takes the port to EXCHANGE (R137, R139). -/
def State.goodMark (s : State) (p : Port) : State :=
  let n := (s.links.get p).goodMarks + 1
  if n ≥ 16 then s.enterExchange p else s.updLink p fun l => { l with goodMarks := n }

/-- MARK (R137, R138, R142). -/
def execMark (p : Port) (s : State) : Host.Outcome State Fault Refusal :=
  whenRunning s fun s => if s.link p = .aligning then s.goodMark p else s.receive p id id

/-- Loss of alignment in EXCHANGE or UP (R138). -/
def State.alignmentLost (s : State) (p : Port) : State :=
  let s1 := if s.isUp p then s.leaveUp p LinkPort.loseAlignment else s.updLink p LinkPort.loseAlignment
  s1.raise .alignLost

/-- A framing failure on a port in EXCHANGE or UP: the fourth in a row loses alignment (R138). -/
def State.framingFailed (s : State) (p : Port) : State :=
  let n := (s.links.get p).framingRun + 1
  if n ≥ 4 then s.alignmentLost p else s.updLink p fun l => { l with framingRun := n }

/-- FRAMING_FAILURE (R137, R138, R142). -/
def execFramingFailure (p : Port) (s : State) : Host.Outcome State Fault Refusal :=
  whenRunning s fun s =>
    match s.link p with
    | .off | .dark | .faulted => s
    | .aligning => s.updLink p fun l => { l with goodMarks := 0 }
    | .exchange | .up => s.framingFailed p

/-- FAILED_WORD: a failed check, or an undefined upstream kind, on a well-framed word or cell (R142, R144, R185). -/
def execFailedWord (p : Port) (s : State) : Host.Outcome State Fault Refusal :=
  whenRunning s fun s => s.receive p (·.checkError p) (·.checkError p)

/-- A HELLO taken in EXCHANGE (table of R94). -/
def State.helloInExchange (s : State) (p : Port) (n : Fin 128) : State :=
  if n.val < 8 then s else s.enterUp p (min 64 n.val)

/-- A HELLO taken in UP: a rejoin, or ignored (R95). -/
def State.helloInUp (s : State) (p : Port) (n : Fin 128) : State :=
  if n.val < 8 then s else (s.leaveUp p id).enterUp p (min 64 n.val)

/-- HELLO (R94, R95, R141). -/
def execHello (p : Port) (n : Fin 128) (s : State) : Host.Outcome State Fault Refusal :=
  whenRunning s fun s => s.receive p (·.helloInExchange p n) (·.helloInUp p n)

/-- An expiry of the exchange timer in EXCHANGE (R140). -/
def State.exchangeExpired (s : State) (p : Port) : State :=
  let s1 := s.updLink p fun l => { l with retry := l.retry + 1 }
  if (s.links.get p).retry + 1 < 8 then
    (s1.updLink p fun l => { l with exchangeTimer := some (s.now + linkPeriod) }).sendHello p
  else s1.enterFaulted p

/-- EXCHANGE_TIMER_EXPIRY of the timer that expires at `due`; a stopped or restarted timer has no such expiry (R140). -/
def execExchangeTimerExpiry (p : Port) (due : Time) (s : State) : Host.Outcome State Fault Refusal :=
  whenRunning s fun s =>
    if s.link p = .exchange ∧ (s.links.get p).exchangeTimer = some due then (s.arrive due).exchangeExpired p else s

/-- CHECK_ERROR_WINDOW_EXPIRY of the window that expires at `due`: it restarts with count 0 (R144). -/
def execCheckErrorWindowExpiry (p : Port) (due : Time) (s : State) : Host.Outcome State Fault Refusal :=
  whenRunning s fun s =>
    if (s.links.get p).window = some due then
      (s.arrive due).updLink p fun l => { l with window := some ((s.arrive due).now + linkPeriod), windowCount := 0 }
    else s

end Sys2Proof.Machine
end

