-- ==== Sys2Proof/Machine/PortCommands.lean ====
section
/-! DEFINITION. Machine/PortCommands.lean: SET PORT, READ PORT and FABRIC RESTART (chapters 7 and 8). -/

namespace Sys2Proof.Machine

/-! ### SET PORT -/

def LinkPort.withSettings (l : LinkPort) (x : PortSettings) : LinkPort :=
  { l with enable := x.enable, holdEnable := x.holdEnable, threshold := x.threshold }

def Arbiter.withSettings (a : Arbiter) (x : PortSettings) : Arbiter :=
  { a with policy := x.policy, sole := x.sole, turn := x.turn }

/-- The enable field of a SET PORT moves a port into and out of OFF (table of R136). -/
def State.applyEnable (s : State) (p : Port) (enable : Bool) : State :=
  match s.link p, enable with
  | .off, true =>
    s.updLink p fun l => if l.presence then l.toAligning else { l with link := .dark }
  | .off, false => s
  | .up, false => s.leaveUp p LinkPort.toOff
  | .dark, false | .aligning, false | .exchange, false | .faulted, false => s.updLink p LinkPort.toOff
  | .dark, true | .aligning, true | .exchange, true | .up, true | .faulted, true => s

/-- Hold enable turned from yes to no while a hold is in force and the port stays UP: RESUME (R148). -/
def State.endsHold (s : State) (p : Port) (x : PortSettings) : Bool :=
  (s.links.get p).holdEnable && !x.holdEnable && (s.intakes.get p).hold && s.isUp p && x.enable

/-- The effect of a SET PORT (R64, R136, R148, R166). -/
def State.setPort (s : State) (p : Port) (x : PortSettings) : State :=
  let s1 := (s.updLink p (·.withSettings x)).updArb p (·.withSettings x)
  let s2 := if s.endsHold p x then (s1.updIntake p fun q => { q with hold := false }).sendWord p .resume else s1
  s2.applyEnable p x.enable

/-- SET_PORT (R148, R166). -/
def execSetPort (l : MgmtLink) (port enable hold policy sole turn threshold : Byte) (s : State) :
    Host.Outcome State Fault Refusal :=
  whenRunning s fun s => s.mutating l 6 fun s =>
    match numArg 32 port.toNat, settingsArg enable hold policy sole turn threshold with
    | some p, some x => (s.setPort p x).respond l 6 .done (.linkState ((s.setPort p x).link p))
    | _, _ => s.respond l 6 .badArgument .none

/-! ### READ PORT -/

/-- The alignment-lost sticky of a management link. -/
def LinkPort.sticky (x : LinkPort) : MgmtLink → Bool
  | .a => x.stickyA
  | .b => x.stickyB

def LinkPort.clearSticky (x : LinkPort) : MgmtLink → LinkPort
  | .a => { x with stickyA := false }
  | .b => { x with stickyB := false }

/-- The time that remains to an expiry in whole microseconds, rounded down (R92). -/
def State.remaining (s : State) (expiry : Time) : Nat := (expiry - s.now) / Config.microsecond

def State.grantReport (s : State) (r : GrantRecord) : GrantReport :=
  ⟨r.tag, r.cls, r.target, r.expiry.map s.remaining⟩

def TxEntry.report : TxEntry → TxReport
  | .unicast src c d _ => .unicast src c d
  | .copy k => .copy k

/-- What READ PORT returns to link `l` (R66, R92, R108, R133, R151, R165). -/
def State.portReport (s : State) (l : MgmtLink) (p : Port) : PortReport :=
  let x := s.links.get p
  let a := s.arbiters.get p
  let t := s.transmit.get p
  { link := x.link
    presence := x.presence
    goodMarks := x.goodMarks
    framingRun := x.framingRun
    retry := x.retry
    windowCount := x.windowCount
    enable := x.enable
    holdEnable := x.holdEnable
    threshold := x.threshold
    sticky := x.sticky l
    credit := a.credit
    inFlight := a.inFlight
    policy := a.policy
    sole := a.sole
    turn := a.turn
    u := a.u
    ptrs := a.ptrs
    deliveryLength := a.delivery.length
    nextTag := (s.grantLists.get p).nextTag
    grants := (s.records p).map s.grantReport
    bufferCount := x.bufferCount
    queue := t.queue.map TxEntry.report
    sending := t.sending
    mcastQueue := s.mcastQueues.get p
    delivery := a.delivery }

/-- READ_PORT (R151, R165): the sending link's sticky is returned and cleared. -/
def execReadPort (l : MgmtLink) (port : Byte) (s : State) : Host.Outcome State Fault Refusal :=
  whenRunning s fun s =>
    match numArg 32 port.toNat with
    | some p => (s.updLink p (·.clearSticky l)).respond l 7 .done (.port (s.portReport l p))
    | none => s.respond l 7 .badArgument .none

/-! ### FABRIC RESTART -/

/-- The ports that the restart takes to EXCHANGE (R149). -/
def State.restarted (s : State) (p : Port) : Bool := decide (s.link p = .up) || decide (s.link p = .exchange)

/-- A link port after the restart (R93, R149). -/
def LinkPort.afterRestart (now : Time) (l : LinkPort) : LinkPort :=
  match l.link with
  | .up | .exchange => { l.toExchange now with retry := 0, bufferCount := 0 }
  | .off | .dark | .aligning | .faulted => { l with bufferCount := 0 }

/-- The scheduling state of every block cleared at one event (R19, R42, R69, R90, R106, R131). -/
def State.clearScheduling (s : State) : State :=
  { s with
    intakes := Bank.fill Intake.idle
    matrix := Bank.fill Row.zero
    absorbPtr := 0
    portMap := Bank.tab fun d => { s.portMap.get d with drain := 0 }
    arbiters := Bank.tab fun j => (s.arbiters.get j).idle
    grantLists := Bank.fill GrantList.empty
    transmit := Bank.fill Transmit.empty
    mcastQueues := Bank.fill []
    allocPtr := 0
    slots := Bank.fill .free }

/-- The restart event (R149, R167): scheduling state cleared, PORT_DOWN for ports that were UP, and HELLO on each
port that enters EXCHANGE. The HELLOs of the one event leave on different links, which the manual does not order; in
`out` they stand in ascending order of port (log 25). -/
def State.restart (s : State) : State :=
  let s1 := { s.clearScheduling with links := Bank.tab fun p => (s.links.get p).afterRestart s.now }
  let s2 := if (List.finRange 32).any s.isUp then s1.raise .portDown else s1
  ((List.finRange 32).filter s.restarted).foldl (fun t p => t.sendHello p) s2

/-- FABRIC_RESTART (R167). -/
def execFabricRestart (l : MgmtLink) (s : State) : Host.Outcome State Fault Refusal :=
  whenRunning s fun s => s.mutating l 8 fun s =>
    s.restart.respond l 8 .done (.number ((List.finRange 32).countP s.restarted))

end Sys2Proof.Machine
end

