-- ==== Sys2Proof/Machine/PortMapCommands.lean ====
section
/-! DEFINITION. Machine/PortMapCommands.lean: staging, committing and reading the Port Map (chapter 2). -/

namespace Sys2Proof.Machine

/-- The most entries of the staging list (R28). -/
def stagingLimit : Nat := 16

/-- The place of `d`'s entry on the staging list, counted from 0. -/
def State.stagedAt (s : State) (d : Dest) : Option Nat := s.staging.findIdx? fun e => e.dest = d

/-- STAGE_MAP (R29, R30). -/
def execStageMap (l : MgmtLink) (dest state port : Byte) (s : State) : Host.Outcome State Fault Refusal :=
  whenRunning s fun s => s.mutating l 9 fun s =>
    if !s.tablesReady then s.respond l 9 .notReady .none
    else
      match numArg 64 dest.toNat, mappingArg state port with
      | some d, some m =>
        match s.stagedAt d with
        | some k =>
          { s with staging := s.staging.set k (StagedEntry.mk d m) }.respond l 9 .done (.staged (k + 1) s.staging.length)
        | none =>
          if stagingLimit ≤ s.staging.length then s.respond l 9 .full .none
          else
            { s with staging := s.staging ++ [(StagedEntry.mk d m)] }.respond l 9 .done
              (.staged (s.staging.length + 1) (s.staging.length + 1))
      | _, _ => s.respond l 9 .badArgument .none

/-- DISCARD_STAGING (R31). -/
def execDiscardStaging (l : MgmtLink) (s : State) : Host.Outcome State Fault Refusal :=
  whenRunning s fun s => s.mutating l 10 fun s =>
    { s with staging := [] }.respond l 10 .done (.number s.staging.length)

/-- The UP ingress ports that hold a count toward `d` in some class, and are sent WITHDRAWN (R17). -/
def State.withdrawTargets (s : State) (d : Dest) : List Port :=
  (List.finRange 32).filter fun i => s.isUp i && (List.finRange 4).any fun c => decide (s.count i d c ≠ 0)

/-- Every count toward `d` becomes 0 (R17). -/
def State.clearDest (s : State) (d : Dest) : State :=
  { s with matrix := Bank.tab fun i => (s.matrix.get i).set d (Bank.fill 0) }

/-- Destination `d` is withdrawn: its counts cleared, and WITHDRAWN sent on each link that held one (R17). -/
def State.withdraw (s : State) (d : Dest) : State :=
  (s.withdrawTargets d).foldl (fun t i => t.sendWord i (.withdrawn d)) (s.clearDest d)

/-- One staged entry applied to the Port Map; the drain count is kept (R27, R35). -/
def State.applyStaged (s : State) (e : StagedEntry) : State :=
  let before := (s.mapEntry e.dest).map
  let s1 := s.updEntry e.dest fun x => { x with map := e.map }
  if before ≠ .void ∧ e.map = .void then s1.withdraw e.dest else s1

/-- The WITHDRAWN words one staged entry generates (R35). -/
def State.withdrawCount (s : State) (e : StagedEntry) : Nat :=
  if (s.mapEntry e.dest).map ≠ .void ∧ e.map = .void then (s.withdrawTargets e.dest).length else 0

/-- The staging list applied in order, with the number of WITHDRAWN words generated (R34). -/
def State.applyAll : List StagedEntry → State → State × Nat
  | [], s => (s, 0)
  | e :: es, s =>
    let (t, n) := State.applyAll es (s.applyStaged e)
    (t, s.withdrawCount e + n)

/-- COMMIT_MAP (R34 to R36). -/
def execCommitMap (l : MgmtLink) (s : State) : Host.Outcome State Fault Refusal :=
  whenRunning s fun s => s.mutating l 11 fun s =>
    if !s.tablesReady then s.respond l 11 .notReady .none
    else if s.staging.isEmpty then s.respond l 11 .empty .none
    else
      let (t, withdrawn) := State.applyAll s.staging s
      { t with staging := [] }.respond l 11 .done (.committed s.staging.length withdrawn)

/-- READ_STAGING (R32). -/
def execReadStaging (l : MgmtLink) (s : State) : Host.Outcome State Fault Refusal :=
  whenRunning s fun s => s.respond l 12 .done (.staging s.staging s.holder)

/-- READ_MAP (R38). -/
def execReadMap (l : MgmtLink) (s : State) : Host.Outcome State Fault Refusal :=
  whenRunning s fun s =>
    if !s.tablesReady then s.respond l 13 .notReady .none
    else s.respond l 13 .done (.map s.portMap.cells)

end Sys2Proof.Machine
end

