-- ==== Sys2Proof/Machine/Reports.lean ====
section
/-! DEFINITION. Machine/Reports.lean: event views, the fault capture, tallies and rate meters (chapter 9). -/

namespace Sys2Proof.Machine

/-- READ_EVENTS (R175). -/
def execReadEvents (l : MgmtLink) (s : State) : Host.Outcome State Fault Refusal :=
  whenRunning s fun s => s.respond l 17 .done (.events (s.view l).visible (s.view l).mask)

/-- CLEAR_EVENTS (R176). -/
def execClearEvents (l : MgmtLink) (kinds : BitVec 16) (s : State) : Host.Outcome State Fault Refusal :=
  whenRunning s fun s =>
    match kindsArg kinds with
    | some ks =>
      let v : EventView := { s.view l with flags := (s.view l).flags &&& ~~~ks }
      (s.setView l v).respond l 18 .done (.visible v.visible)
    | none => s.respond l 18 .badArgument .none

/-- SET_MASK (R175). -/
def execSetMask (l : MgmtLink) (kinds : BitVec 16) (s : State) : Host.Outcome State Fault Refusal :=
  whenRunning s fun s =>
    match kindsArg kinds with
    | some ks =>
      let v : EventView := { s.view l with mask := ks }
      (s.setView l v).respond l 19 .done (.visible v.visible)
    | none => s.respond l 19 .badArgument .none

/-- READ_CAPTURE (R178). -/
def execReadCapture (l : MgmtLink) (s : State) : Host.Outcome State Fault Refusal :=
  whenRunning s fun s => s.respond l 20 .done (.capture s.capture s.moreFaults)

/-- CLEAR_CAPTURE (R178): what the capture held goes back in the response. -/
def execClearCapture (l : MgmtLink) (s : State) : Host.Outcome State Fault Refusal :=
  whenRunning s fun s => s.mutating l 21 fun s =>
    { s with capture := none, moreFaults := false }.respond l 21 .done (.capture s.capture s.moreFaults)

/-- READ_TALLIES (R180). -/
def execReadTallies (l : MgmtLink) (port : Byte) (s : State) : Host.Outcome State Fault Refusal :=
  whenRunning s fun s =>
    match numArg 32 port.toNat with
    | some p => s.respond l 22 .done (.tallies (s.links.get p).tallies)
    | none => s.respond l 22 .badArgument .none

def LinkPort.clearTallies (l : LinkPort) : LinkPort := { l with tallies := Tallies.zero }

/-- CLEAR_TALLIES (R180): 255 names all ports (section 11.3). -/
def execClearTallies (l : MgmtLink) (port : Byte) (s : State) : Host.Outcome State Fault Refusal :=
  whenRunning s fun s => s.mutating l 23 fun s =>
    if port.toNat = 255 then
      { s with links := Bank.tab fun p => (s.links.get p).clearTallies }.respond l 23 .done .none
    else
      match numArg 32 port.toNat with
      | some p => (s.updLink p LinkPort.clearTallies).respond l 23 .done .none
      | none => s.respond l 23 .badArgument .none

/-- A channel is COUNTING under a timed gate (R182, R184). -/
def Meter.busy (m : Meter) : Bool := decide (m.state = .counting) && decide (m.gate ≠ .opened)

/-- A channel started at time `now` (R182). -/
def Meter.started (now : Time) (p : Port) (d : Direction) (g : Gate) : Meter :=
  ⟨.counting, p, d, g, g.time.map (now + ·), 0⟩

/-- START_METER (R182). -/
def execStartMeter (l : MgmtLink) (chan port direction gate : Byte) (s : State) : Host.Outcome State Fault Refusal :=
  whenRunning s fun s => s.mutating l 24 fun s =>
    match numArg 4 chan.toNat, numArg 32 port.toNat, directionArg direction, gateArg gate with
    | some m, some p, some d, some g =>
      if (s.meters.get m).busy then s.respond l 24 .meterBusy .none
      else { s with meters := s.meters.set m (Meter.started s.now p d g) }.respond l 24 .done .none
    | _, _, _, _ => s.respond l 24 .badArgument .none

/-- A COUNTING channel goes to DONE and its timer stops (R183). -/
def Meter.stopped (m : Meter) : Meter :=
  if m.state = .counting then { m with state := .done, timer := none } else m

/-- STOP_METER (R183). -/
def execStopMeter (l : MgmtLink) (chan : Byte) (s : State) : Host.Outcome State Fault Refusal :=
  whenRunning s fun s => s.mutating l 25 fun s =>
    match numArg 4 chan.toNat with
    | some m =>
      { s with meters := s.meters.upd m Meter.stopped }.respond l 25 .done
        (.meterState (s.meters.get m).stopped.state)
    | none => s.respond l 25 .badArgument .none

/-- METER_GATE_EXPIRY of the gate timer that expires at `due`; a stopped or restarted timer has none (R183). -/
def execMeterGateExpiry (m : Chan) (due : Time) (s : State) : Host.Outcome State Fault Refusal :=
  whenRunning s fun s =>
    if (s.meters.get m).state = .counting ∧ (s.meters.get m).timer = some due then
      ({ s.arrive due with meters := s.meters.upd m Meter.stopped }).raise .meterDone
    else s

/-- READ_METER (R184). -/
def execReadMeter (l : MgmtLink) (chan : Byte) (s : State) : Host.Outcome State Fault Refusal :=
  whenRunning s fun s =>
    match numArg 4 chan.toNat with
    | some m =>
      let x := s.meters.get m
      if x.busy then s.respond l 26 .meterBusy .none
      else s.respond l 26 .done (.meter x.state x.port x.direction x.gate x.count)
    | none => s.respond l 26 .badArgument .none

end Sys2Proof.Machine
end

