-- ==== Sys2Proof/Machine/Requests.lean ====
section
/-! DEFINITION. Machine/Requests.lean: the intake queues, absorption and RESYNC (chapter 1, R115). -/

namespace Sys2Proof.Machine

/-- The most words an intake queue holds (R1). -/
def intakeLimit : Nat := 16

def RequestWord.item : RequestWord → RefusedItem
  | .request d _ _ => .request d
  | .group g _ => .group g

def RequestWord.cls : RequestWord → Cls
  | .request _ c _ => c
  | .group _ c => c

/-- The count a refusal of the whole word returns: the word's count, or 1 for a GROUP REQUEST (R4). -/
def RequestWord.count : RequestWord → Nat
  | .request _ _ n => n.val
  | .group _ _ => 1

/-- An OVERRUN refusal (R4, R5): the word does not join, the port is blocked, the refusal is accounted and
offered to the capture (R14), and REFUSE is sent. -/
def State.overrun (s : State) (p : Port) (w : RequestWord) : State :=
  (((s.updIntake p fun q => { q with blocked := true }).accountRefusal p).offer (.overrun p)).sendWord p
    (.refuse .overrun w.item w.cls w.count)

/-- A word joins the intake queue; HOLD is sent when this leaves 12 or more words, hold is enabled and no hold is
in force (R2, R6). -/
def State.join (s : State) (p : Port) (w : RequestWord) : State :=
  let s1 := s.updIntake p fun q => { q with queue := q.queue ++ [w] }
  let q := s1.intakes.get p
  if 12 ≤ q.queue.length ∧ (s.links.get p).holdEnable ∧ !q.hold then
    (s1.updIntake p fun q => { q with hold := true }).sendWord p .hold
  else s1

/-- A request word reaches the intake of an UP port (R2, R4, R5). -/
def State.intakeWord (s : State) (p : Port) (w : RequestWord) : State :=
  if (s.intakes.get p).blocked ∨ intakeLimit ≤ (s.intakes.get p).queue.length then s.overrun p w else s.join p w

/-- REQUEST (R2, R3): a count of 0 is a check error. -/
def execRequest (p : Port) (d : Dest) (c : Cls) (n : Fin 16) (s : State) : Host.Outcome State Fault Refusal :=
  whenRunning s fun s =>
    s.receive p id fun s => if n = 0 then s.checkError p else s.intakeWord p (.request d c n)

/-- GROUP_REQUEST (R2, R3). -/
def execGroupRequest (p : Port) (g : Group) (c : Cls) (s : State) : Host.Outcome State Fault Refusal :=
  whenRunning s fun s => s.receive p id fun s => s.intakeWord p (.group g c)

/-- What RESYNC does on an UP port (R8); RESUME precedes SYNCED. -/
def State.resynced (s : State) (p : Port) : State :=
  let s1 := if (s.intakes.get p).hold then s.sendWord p .resume else s
  ({ s1 with
    intakes := s1.intakes.set p Intake.idle
    matrix := s1.matrix.set p Row.zero
    mcastQueues := s1.mcastQueues.set p [] }).sendWord p .synced

/-- RESYNC (R3, R8). -/
def execResync (p : Port) (s : State) : Host.Outcome State Fault Refusal :=
  whenRunning s fun s => s.receive p id (·.resynced p)

/-! ### Absorption -/

/-- The greatest Request Matrix count (R16). -/
def countLimit : Nat := 63

/-- The most records of a multicast request queue (R114). -/
def mcastLimit : Nat := 16

/-- Absorption of a REQUEST: the first row of R13's table that holds. The second part is the REFUSE, if any. -/
def State.absorbRequest (s : State) (i : Port) (d : Dest) (c : Cls) (n : Nat) : State × Option DownWord :=
  if (s.mapEntry d).map = .void then (s, some (.refuse .noRoute (.request d) c n))
  else if countLimit < s.count i d c + n then
    (s.setCount i d c countLimit, some (.refuse .ceiling (.request d) c (s.count i d c + n - countLimit)))
  else (s.setCount i d c (s.count i d c + n), none)

/-- Absorption of a GROUP REQUEST: the first row of R115's table that holds. -/
def State.absorbGroup (s : State) (i : Port) (g : Group) (c : Cls) : State × Option DownWord :=
  if !(s.groupEntry g).valid then (s, some (.refuse .noGroup (.group g) c 1))
  else if mcastLimit ≤ (s.mcastQueues.get i).length then (s, some (.refuse .mcastFull (.group g) c 1))
  else ({ s with mcastQueues := s.mcastQueues.upd i fun q => q ++ [⟨g, c⟩] }, none)

def State.absorbWord (s : State) (i : Port) : RequestWord → State × Option DownWord
  | .request d c n => s.absorbRequest i d c n.val
  | .group g c => s.absorbGroup i g c

/-- The port the absorption arbiter serves next (R11). -/
def State.nextServed (s : State) : Option Port :=
  (cyclic s.absorbPtr).find? fun p => !(s.intakes.get p).queue.isEmpty

/-- The words of one absorption, a REFUSE and a RESUME; the manual does not order the two (log 4). -/
def State.sendBoth (s : State) (i : Port) (refusal : Option DownWord) (resumes : Bool) : State :=
  match refusal, resumes with
  | none, false => s
  | none, true => s.sendWord i .resume
  | some w, false => s.sendWord i w
  | some w, true =>
    let s1 : State := { s with freeCount := s.freeCount + 1 }
    if Config.refuseFirst s.freeCount then (s1.sendWord i w).sendWord i .resume
    else (s1.sendWord i .resume).sendWord i w

/-- One absorption from port `i` of its oldest word `w`, with `rest` behind it (R11 to R14, R7). -/
def State.absorb (s : State) (i : Port) (w : RequestWord) (rest : List RequestWord) : State :=
  let popped := { s.updIntake i fun q => { q with queue := rest } with absorbPtr := i + 1 }
  let (s1, refusal) := popped.absorbWord i w
  let s2 := if refusal.isSome then s1.accountRefusal i else s1
  let resumes := (s.intakes.get i).hold && rest.length == 4
  (if resumes then s2.updIntake i fun q => { q with hold := false } else s2).sendBoth i refusal resumes

/-- ABSORPTION (R11, R12). While every queue is empty the arbiter makes none. -/
def execAbsorption (s : State) : Host.Outcome State Fault Refusal :=
  whenRunning s fun s =>
    match s.nextServed with
    | none => s
    | some i =>
      match (s.intakes.get i).queue with
      | [] => s
      | w :: rest => s.absorb i w rest

end Sys2Proof.Machine
end

