-- ==== Sys2Proof/Machine/Resets.lean ====
section
/-! DEFINITION. Machine/Resets.lean: power-on, the reset line, and the completion of table initialisation. -/

namespace Sys2Proof.Machine

/-- POWER_ON (R169, R170): the inputs have the levels given; the full reset of power-on begins, or, when the
reset line is asserted, the part is held until the release, and the start record will say POWER. -/
def execPowerOn (strap : Plane) (presence : BitVec 32) (resetAsserted : Bool) (s : State) :
    Host.Outcome State Fault Refusal :=
  let s1 := { s with links := Bank.tab fun p => { s.links.get p with presence := presence.getLsbD p.val } }
  .next (if resetAsserted then s1.holdReset .power else s1.fullReset .power strap)

/-- RESET_LINE_ASSERT (R170). A line that is asserted already does not change. -/
def execResetLineAssert (s : State) : Host.Outcome State Fault Refusal :=
  .next (if s.held.isSome then s else s.holdReset .line)

/-- RESET_LINE_RELEASE (R169, R170): the full reset begins; its cause is POWER when power was applied with the
line asserted. A line that is not asserted does not change. -/
def execResetLineRelease (strap : Plane) (s : State) : Host.Outcome State Fault Refusal :=
  .next (match s.held with
    | some cause => s.fullReset cause strap
    | none => s)

/-- TABLE_INITIALISATION_COMPLETION (R39, R41), of the initialisation that completes at `due`; one that a full
reset abandoned never completes (R40). -/
def execTableInitialisationCompletion (due : Time) (s : State) : Host.Outcome State Fault Refusal :=
  whenRunning s fun s =>
    if s.tableInit = some due then
      ({ s.arrive due with
        portMap := Bank.fill MapEntry.void
        groups := Bank.fill GroupEntry.invalid
        tablesReady := true
        tableInit := none }).raise .tablesReady
    else s

end Sys2Proof.Machine
end

