-- ==== Sys2Proof/Machine/Steering.lean ====
section
/-! DEFINITION. Machine/Steering.lean: management messages that carry no command out, IDENTIFY, steering and SET TIMING (chapter 8). -/

namespace Sys2Proof.Machine

/-- MESSAGE_CHECK_FAILURE (R153): discarded without a response; the link's count rises and stays at its limit. -/
def execMessageCheckFailure (l : MgmtLink) (s : State) : Host.Outcome State Fault Refusal :=
  whenRunning s fun s =>
    match l with
    | .a => { s with discardedA := raiseTo shortLimit 1 s.discardedA }
    | .b => { s with discardedB := raiseTo shortLimit 1 s.discardedB }

/-- UNKNOWN_COMMAND (R153): answered BAD_ARGUMENT with the code as received and no data. -/
def execUnknownCommand (l : MgmtLink) (code : Byte) (s : State) : Host.Outcome State Fault Refusal :=
  whenRunning s fun s => s.respond l code .badArgument .none

/-- What IDENTIFY returns to link `l` (R164). -/
def State.identity (s : State) (l : MgmtLink) : IdentityReport where
  vendor := 1937
  part := 3201
  revision := 1
  plane := s.plane
  cause := s.startCause
  tablesReady := s.tablesReady
  holder := s.holder
  timeout := s.claimTimeout
  window := s.grantWindow
  discarded := s.discarded l

/-- IDENTIFY (R164). -/
def execIdentify (l : MgmtLink) (s : State) : Host.Outcome State Fault Refusal :=
  whenRunning s fun s => s.respond l 1 .done (.identity (s.identity l))

/-- CLAIM (R158). -/
def execClaim (l : MgmtLink) (s : State) : Host.Outcome State Fault Refusal :=
  whenRunning s fun s =>
    if s.holder = none ∨ s.holder = some l then
      (s.startClaim l).respond l 2 .done (.claimed (some l) s.claimTimeout)
    else s.respond l 2 .held (.holder s.holder)

/-- REFRESH (R159). -/
def execRefresh (l : MgmtLink) (s : State) : Host.Outcome State Fault Refusal :=
  whenRunning s fun s =>
    if s.holder = some l then (s.startClaim l).respond l 3 .done (.refreshed s.claimTimeout)
    else s.respond l 3 .notSteering (.holder s.holder)

/-- RELEASE (R160). -/
def execRelease (l : MgmtLink) (s : State) : Host.Outcome State Fault Refusal :=
  whenRunning s fun s =>
    if s.holder = some l then s.dropSteering.respond l 4 .done (.number s.staging.length)
    else s.respond l 4 .notSteering .none

/-- CLAIM_TIMER_EXPIRY of the timer that expires at `due`; a restarted or stopped timer has no such expiry (R161). -/
def execClaimTimerExpiry (due : Time) (s : State) : Host.Outcome State Fault Refusal :=
  whenRunning s fun s =>
    if s.claimTimer = some due then ((s.arrive due).dropSteering).raise .claimLapsed else s

/-- SET_TIMING (R74, R163). -/
def execSetTiming (l : MgmtLink) (window timeout : Byte) (s : State) : Host.Outcome State Fault Refusal :=
  whenRunning s fun s => s.mutating l 5 fun s =>
    match windowArg window, timeoutArg timeout with
    | some w, some t => { s with grantWindow := w, claimTimeout := t }.respond l 5 .done .none
    | _, _ => s.respond l 5 .badArgument .none

end Sys2Proof.Machine
end

