-- ==== Sys2Proof/Machine/Transmission.lean ====
section
/-! DEFINITION. Machine/Transmission.lean: the transmitters (chapter 5). -/

namespace Sys2Proof.Machine

/-- The cell that the head entry of j's transmit queue is sent as (R101); a copy's content is read from its slot. -/
def State.headCell (s : State) (j : Port) : Option DownCell :=
  match (s.transmit.get j).queue with
  | [] => none
  | .unicast src c d x :: _ => some ⟨src, c, .unicast d, x⟩
  | .copy k :: _ =>
    match s.slots.get k with
    | .filled src g c x _ => some ⟨src, c, .multicast g, x⟩
    | .free | .reserved _ _ _ => none

/-- One MARK of fill, where the transmitter sends fill (R100, R143). -/
def State.sendFill (s : State) (j : Port) : State :=
  match s.fillWord j with
  | some w => s.emit (.word j w)
  | none => s

/-- CONTROL_WORD_TRANSMISSION (R10, R100, R143): the free transmitter of an UP port sends its oldest waiting word; with
no word waiting this is one MARK of fill, where the transmitter sends fill (log 8). -/
def execControlWordTransmission (j : Port) (s : State) : Host.Outcome State Fault Refusal :=
  whenRunning s fun s =>
    let t := s.transmit.get j
    match t.words with
    | w :: ws => if s.isUp j && !t.sending then (s.updTx j fun t => { t with words := ws }).emit (.word j w) else s
    | [] => s.sendFill j

/-- TRANSMISSION_START (R100, R101): the free transmitter of an UP port, with no control word waiting, begins the
head entry. -/
def execTransmissionStart (j : Port) (s : State) : Host.Outcome State Fault Refusal :=
  whenRunning s fun s =>
    let t := s.transmit.get j
    match s.headCell j with
    | some x =>
      if s.isUp j && !t.sending && t.words.isEmpty then
        (s.updTx j fun t => { t with sending := true }).emit (.cellStart j x)
      else s
    | none => s

/-- What the head entry of j's queue held is released at its completion (R102). -/
def State.releaseEntry (s : State) (j : Port) : TxEntry → State
  | .unicast _ _ d _ => s.updEntry d fun e => { e with drain := e.drain - 1 }
  | .copy k => s.updSlot k (·.release j)

/-- The completion of the head entry `e` (R102). -/
def State.complete (s : State) (j : Port) (e : TxEntry) : State :=
  let s1 := s.updTx j fun t => { t with queue := t.queue.tail, sending := false }
  let s2 := (s1.updArb j fun a => { a with inFlight := a.inFlight - 1 }).releaseEntry j e
  ((s2.updLink j fun l => { l with tallies := l.tallies.addCellsOut }).countMeters .egress j).emit (.cellEnd j)

/-- TRANSMIT_COMPLETION (R102); a transmission that was abandoned has no completion (R104). -/
def execTransmitCompletion (j : Port) (s : State) : Host.Outcome State Fault Refusal :=
  whenRunning s fun s =>
    match (s.transmit.get j).queue with
    | e :: _ => if (s.transmit.get j).sending then s.complete j e else s
    | [] => s

end Sys2Proof.Machine
end

