-- ==== Sys2Proof/Machine/Dispatch.lean ====
section
/-! DEFINITION. Machine/Dispatch.lean: one arm for each command, each a direct call of its meaning. -/

namespace Sys2Proof.Machine

def exec (i : Instr) (s : State) : Host.Outcome State Fault Refusal :=
  match i with
  | .powerOn strap presence resetAsserted => Sys2Proof.Machine.execPowerOn strap presence resetAsserted s
  | .resetLineAssert => Sys2Proof.Machine.execResetLineAssert s
  | .resetLineRelease strap => Sys2Proof.Machine.execResetLineRelease strap s
  | .tableInitialisationCompletion due => Sys2Proof.Machine.execTableInitialisationCompletion due s
  | .presenceChange p present => Sys2Proof.Machine.execPresenceChange p present s
  | .mark p => Sys2Proof.Machine.execMark p s
  | .framingFailure p => Sys2Proof.Machine.execFramingFailure p s
  | .failedWord p => Sys2Proof.Machine.execFailedWord p s
  | .hello p bufferCount => Sys2Proof.Machine.execHello p bufferCount s
  | .request p d c n => Sys2Proof.Machine.execRequest p d c n s
  | .groupRequest p g c => Sys2Proof.Machine.execGroupRequest p g c s
  | .resync p => Sys2Proof.Machine.execResync p s
  | .credit p n => Sys2Proof.Machine.execCredit p n s
  | .cell p x => Sys2Proof.Machine.execCell p x s
  | .absorption => Sys2Proof.Machine.execAbsorption s
  | .unicastGrantDecision j chosen => Sys2Proof.Machine.execUnicastGrantDecision j chosen s
  | .deliveryDecision j => Sys2Proof.Machine.execDeliveryDecision j s
  | .allocatorDecision => Sys2Proof.Machine.execAllocatorDecision s
  | .grantExpiry p tag due => Sys2Proof.Machine.execGrantExpiry p tag due s
  | .transmissionStart j => Sys2Proof.Machine.execTransmissionStart j s
  | .transmitCompletion j => Sys2Proof.Machine.execTransmitCompletion j s
  | .exchangeTimerExpiry p due => Sys2Proof.Machine.execExchangeTimerExpiry p due s
  | .checkErrorWindowExpiry p due => Sys2Proof.Machine.execCheckErrorWindowExpiry p due s
  | .claimTimerExpiry due => Sys2Proof.Machine.execClaimTimerExpiry due s
  | .meterGateExpiry m due => Sys2Proof.Machine.execMeterGateExpiry m due s
  | .messageCheckFailure l => Sys2Proof.Machine.execMessageCheckFailure l s
  | .unknownCommand l code => Sys2Proof.Machine.execUnknownCommand l code s
  | .identify l => Sys2Proof.Machine.execIdentify l s
  | .claim l => Sys2Proof.Machine.execClaim l s
  | .refresh l => Sys2Proof.Machine.execRefresh l s
  | .release l => Sys2Proof.Machine.execRelease l s
  | .setTiming l window timeout => Sys2Proof.Machine.execSetTiming l window timeout s
  | .setPort l port enable hold policy sole turn threshold => Sys2Proof.Machine.execSetPort l port enable hold policy sole turn threshold s
  | .readPort l port => Sys2Proof.Machine.execReadPort l port s
  | .fabricRestart l => Sys2Proof.Machine.execFabricRestart l s
  | .stageMap l dest state port => Sys2Proof.Machine.execStageMap l dest state port s
  | .discardStaging l => Sys2Proof.Machine.execDiscardStaging l s
  | .commitMap l => Sys2Proof.Machine.execCommitMap l s
  | .readStaging l => Sys2Proof.Machine.execReadStaging l s
  | .readMap l => Sys2Proof.Machine.execReadMap l s
  | .writeGroup l g valid prune members => Sys2Proof.Machine.execWriteGroup l g valid prune members s
  | .readGroup l g => Sys2Proof.Machine.execReadGroup l g s
  | .readRequests l port => Sys2Proof.Machine.execReadRequests l port s
  | .readEvents l => Sys2Proof.Machine.execReadEvents l s
  | .clearEvents l kinds => Sys2Proof.Machine.execClearEvents l kinds s
  | .setMask l kinds => Sys2Proof.Machine.execSetMask l kinds s
  | .readCapture l => Sys2Proof.Machine.execReadCapture l s
  | .clearCapture l => Sys2Proof.Machine.execClearCapture l s
  | .readTallies l port => Sys2Proof.Machine.execReadTallies l port s
  | .clearTallies l port => Sys2Proof.Machine.execClearTallies l port s
  | .startMeter l chan port direction gate => Sys2Proof.Machine.execStartMeter l chan port direction gate s
  | .stopMeter l chan => Sys2Proof.Machine.execStopMeter l chan s
  | .readMeter l chan => Sys2Proof.Machine.execReadMeter l chan s
  | .controlWordTransmission j => Sys2Proof.Machine.execControlWordTransmission j s

end Sys2Proof.Machine
end

