-- ==== Sys2Proof/Machine/Formats.lean ====
section
/-! DEFINITION. Machine/Formats.lean: words, cells and management messages as bits (chapter 11): how the part reads
what arrives into a command, and the bits of everything it sends. -/

namespace Sys2Proof.Machine.Formats

/-! ### Cyclic checks (R185 to R187) -/

/-- One bit into a check register of polynomial `poly`, most significant bit first. -/
def crcStep {n : Nat} (poly r : BitVec n) (b : Bool) : BitVec n :=
  if r.msb != b then (r <<< 1) ^^^ poly else r <<< 1

/-- The check of a sequence of bits, from a register of all ones. -/
def crc {n : Nat} (poly : BitVec n) (bits : List Bool) : BitVec n := bits.foldl (crcStep poly) (BitVec.allOnes n)

/-- The bits of a vector, most significant first. -/
def bitsOf {n : Nat} (w : BitVec n) : List Bool := (List.range n).map fun k => w.getMsbD k

def bytesBits (bs : List Byte) : List Bool := bs.flatMap fun b => bitsOf b

/-- x^8 + x^2 + x + 1. -/
def poly8 : BitVec 8 := 0x07#8
/-- x^16 + x^12 + x^5 + 1. -/
def poly16 : BitVec 16 := 0x1021#16
/-- x^32 + x^26 + x^23 + x^22 + x^16 + x^12 + x^11 + x^10 + x^8 + x^7 + x^5 + x^4 + x^2 + x + 1. -/
def poly32 : BitVec 32 := 0x04C11DB7#32

/-! ### Fields -/

def portBits (p : Port) : BitVec 5 := BitVec.ofFin p
def destBits (d : Dest) : BitVec 6 := BitVec.ofFin d
def clsBits (c : Cls) : BitVec 2 := BitVec.ofFin c
def groupBits (g : Group) : BitVec 10 := BitVec.ofFin g
def tagBits (t : Tag) : BitVec 8 := BitVec.ofFin t

/-- Cast: 0 for UNICAST, 1 for MULTICAST (R185). -/
def castBit : CastItem → BitVec 1
  | .unicast _ => 0#1
  | .multicast _ => 1#1

/-- The 10-bit destination-or-group field; a destination occupies its low six bits (R185). -/
def itemBits : CastItem → BitVec 10
  | .unicast d => 0#4 ++ destBits d
  | .multicast g => groupBits g

def reasonBits : RefuseReason → BitVec 3
  | .overrun => 0#3
  | .ceiling => 1#3
  | .noRoute => 2#3
  | .noGroup => 3#3
  | .mcastFull => 4#3

def refusedKindBit : RefusedItem → BitVec 1
  | .request _ => 0#1
  | .group _ => 1#1

def refusedItemBits : RefusedItem → BitVec 10
  | .request d => 0#4 ++ destBits d
  | .group g => groupBits g

/-! ### Control words (section 11.1, R185) -/

/-- A control word: kind, body, and the check over both. -/
def makeWord (kind : BitVec 6) (body : BitVec 34) : BitVec 48 :=
  (kind ++ body) ++ crc poly8 (bitsOf (kind ++ body))

def wordKind (w : BitVec 48) : BitVec 6 := w.extractLsb' 42 6
def wordBody (w : BitVec 48) : BitVec 34 := w.extractLsb' 8 34
def wordCheck (w : BitVec 48) : BitVec 8 := w.extractLsb' 0 8

/-- The check the receiver recomputes over the received kind and body. -/
def wordCheckOf (w : BitVec 48) : BitVec 8 := crc poly8 (bitsOf (wordKind w ++ wordBody w))

/-- A word of the part as bits (R185). -/
def downWord : DownWord → BitVec 48
  | .mark => makeWord 0x00#6 0#34
  | .hello plane p => makeWord 0x21#6 ((BitVec.ofFin plane : BitVec 3) ++ portBits p ++ 0#26)
  | .grant t c x => makeWord 0x22#6 (tagBits t ++ castBit x ++ clsBits c ++ itemBits x ++ 0#13)
  | .lapsed t c x => makeWord 0x23#6 (tagBits t ++ castBit x ++ clsBits c ++ itemBits x ++ 0#13)
  | .refuse r x c n =>
    makeWord 0x24#6
      (reasonBits r ++ refusedKindBit x ++ refusedItemBits x ++ clsBits c ++ BitVec.ofNat 4 n ++ 0#14)
  | .hold => makeWord 0x25#6 0#34
  | .resume => makeWord 0x26#6 0#34
  | .withdrawn d => makeWord 0x27#6 (destBits d ++ 0#28)
  | .synced => makeWord 0x28#6 0#34

/-- A well-framed 48-bit position on the upstream link of port `p` (R185, in the order it gives). -/
def readWord (p : Port) (w : BitVec 48) : Instr :=
  let b := wordBody w
  if wordCheck w ≠ wordCheckOf w then .failedWord p
  else
    match (wordKind w).toNat with
    | 0 => .mark p
    | 1 => .hello p (b.extractLsb' 0 7).toFin
    | 2 => .request p (b.extractLsb' 28 6).toFin (b.extractLsb' 26 2).toFin (b.extractLsb' 22 4).toFin
    | 3 => .groupRequest p (b.extractLsb' 24 10).toFin (b.extractLsb' 22 2).toFin
    | 4 => .resync p
    | 5 => .credit p (b.extractLsb' 29 5).toFin
    | _ => .failedWord p

/-- The word with which a line card sends a command of one of the six upstream word kinds; unused bits zero. -/
def upWord : Instr → Option (BitVec 48)
  | .mark _ => some (makeWord 0x00#6 0#34)
  | .hello _ n => some (makeWord 0x01#6 (0#27 ++ (BitVec.ofFin n : BitVec 7)))
  | .request _ d c n => some (makeWord 0x02#6 (destBits d ++ clsBits c ++ (BitVec.ofFin n : BitVec 4) ++ 0#22))
  | .groupRequest _ g c => some (makeWord 0x03#6 (groupBits g ++ clsBits c ++ 0#22))
  | .resync _ => some (makeWord 0x04#6 0#34)
  | .credit _ n => some (makeWord 0x05#6 ((BitVec.ofFin n : BitVec 5) ++ 0#29))
  | _ => none

/-! ### Cells (section 11.2, R186) -/

/-- The check of a cell over its header and the whole payload field. -/
def cellCheck (header : BitVec 64) (payload : List Byte) : BitVec 32 :=
  crc poly32 (bitsOf header ++ bytesBits payload)

/-- A cell read on the upstream link of port `p`: header, payload field and check. -/
def readCell (p : Port) (header : BitVec 64) (payload : List Byte) (check : BitVec 32) : Instr :=
  if check ≠ cellCheck header payload then .failedWord p
  else
    .cell p
      { tag := (header.extractLsb' 50 8).toFin
        first := header.getLsbD 49
        last := header.getLsbD 48
        length := (header.extractLsb' 40 8).toFin
        flow := header.extractLsb' 16 24
        payload := payload }

/-- The header of an upstream cell; unused bits zero. -/
def upHeader (x : UpCell) : BitVec 64 :=
  0x10#6 ++ tagBits x.tag ++ BitVec.ofBool x.first ++ BitVec.ofBool x.last ++ (BitVec.ofFin x.length : BitVec 8)
    ++ x.flow ++ 0#16

/-- The header of a downstream cell (R101). -/
def downHeader (x : DownCell) : BitVec 64 :=
  0x30#6 ++ portBits x.src ++ clsBits x.cls ++ castBit x.item ++ itemBits x.item ++ BitVec.ofBool x.content.first
    ++ BitVec.ofBool x.content.last ++ BitVec.ofNat 8 x.content.length ++ x.content.flow ++ 0#6

/-- The payload field of a downstream cell: the bytes up to the payload length, then zeros (R101). -/
def payloadField (x : CellContent) : List Byte :=
  let bs := x.payload.take x.length
  bs ++ List.replicate (128 - bs.length) 0#8

/-- A downstream cell as 140 bytes. -/
def downCell (x : DownCell) : List Byte :=
  let bytes {n : Nat} (w : BitVec n) : List Byte :=
    (List.range (n / 8)).map fun k => w.extractLsb' (n - 8 - 8 * k) 8
  bytes (downHeader x) ++ payloadField x.content ++ bytes (cellCheck (downHeader x) (payloadField x.content))

/-! ### The positions of an upstream stream -/

/-- A number from bits, most significant first. -/
def ofBits (n : Nat) (bits : List Bool) : BitVec n := BitVec.ofNat n (bits.foldl (fun a b => 2 * a + b.toNat) 0)

/-- The bytes of a sequence of `k` times 8 bits. -/
def ofBytes : Nat → List Bool → List Byte
  | 0, _ => []
  | k + 1, bits => ofBits 8 (bits.take 8) :: ofBytes k (bits.drop 8)

/-- The positions of 48 bits that follow the first of a damaged cell: the 1,072 bits behind it hold 22 (R186). -/
def damagedTail : Nat := 22

/-- The next position of an upstream stream, with what is left of it and how many positions of a damaged cell are still
to come; none when too few bits have arrived. A position without a frame is a framing failure of 48 bits; a framed one
whose kind field reads 0x10 is a cell of 1,120 bits, read whole; any other is a control word of 48 bits. A damaged cell,
whose kind field no longer reads 0x10, gives a failed word, and each of its 22 further positions a failed word where a
frame is found and a framing failure where none is, whatever its bits spell (R186). Whether a frame is found, and
whether a position begins a damaged cell, is given from outside (logs 16 and 26). -/
def readPosition (p : Port) (tail : Nat) (framed damaged : Bool) (bits : List Bool) : Option (Instr × Nat × List Bool) :=
  if bits.length < 48 then none
  else if 0 < tail then some (if framed then .failedWord p else .framingFailure p, tail - 1, bits.drop 48)
  else if framed && ofBits 6 (bits.take 6) == 0x10#6 then
    if bits.length < 1120 then none
    else
      some (readCell p (ofBits 64 (bits.take 64)) (ofBytes 128 (bits.drop 64)) (ofBits 32 ((bits.drop 1088).take 32)), 0,
        bits.drop 1120)
  else
    some (if !framed then .framingFailure p else if damaged then .failedWord p else readWord p (ofBits 48 (bits.take 48)),
      if damaged then damagedTail else 0, bits.drop 48)

/-- The positions of an upstream stream in turn, each with whether a frame is found there and whether it begins a damaged
cell: the commands they are, the positions of a damaged cell still to come, and the bits that are left. -/
def readStream (p : Port) : Nat → List (Bool × Bool) → List Bool → List Instr × Nat × List Bool
  | tail, [], bits => ([], tail, bits)
  | tail, (framed, damaged) :: more, bits =>
    match readPosition p tail framed damaged bits with
    | none => ([], tail, bits)
    | some (c, tail', rest) =>
      let (cs, tail'', rest') := readStream p tail' more rest
      (c :: cs, tail'', rest')

/-! ### Command messages (section 11.3, R187) -/

/-- The command a code and its argument bytes spell; none for an unknown code or a length that does not fit. -/
def readArgs (l : MgmtLink) (code : Byte) (args : List Byte) : Option Instr :=
  match code.toNat, args with
  | 1, [] => some (.identify l)
  | 2, [] => some (.claim l)
  | 3, [] => some (.refresh l)
  | 4, [] => some (.release l)
  | 5, [w, t] => some (.setTiming l w t)
  | 6, [p, e, h, pol, src, k, th] => some (.setPort l p e h pol src k th)
  | 7, [p] => some (.readPort l p)
  | 8, [] => some (.fabricRestart l)
  | 9, [d, st, p] => some (.stageMap l d st p)
  | 10, [] => some (.discardStaging l)
  | 11, [] => some (.commitMap l)
  | 12, [] => some (.readStaging l)
  | 13, [] => some (.readMap l)
  | 14, g1 :: g0 :: v :: pr :: n :: ms => if ms.length = n.toNat then some (.writeGroup l (g1 ++ g0) v pr ms) else none
  | 15, [g1, g0] => some (.readGroup l (g1 ++ g0))
  | 16, [p] => some (.readRequests l p)
  | 17, [] => some (.readEvents l)
  | 18, [k1, k0] => some (.clearEvents l (k1 ++ k0))
  | 19, [k1, k0] => some (.setMask l (k1 ++ k0))
  | 20, [] => some (.readCapture l)
  | 21, [] => some (.clearCapture l)
  | 22, [p] => some (.readTallies l p)
  | 23, [p] => some (.clearTallies l p)
  | 24, [m, p, d, g] => some (.startMeter l m p d g)
  | 25, [m] => some (.stopMeter l m)
  | 26, [m] => some (.readMeter l m)
  | _, _ => none

def u8 (n : Nat) : List Byte := [BitVec.ofNat 8 n]
/-- Two bytes, most significant first. -/
def u16 (n : Nat) : List Byte := [BitVec.ofNat 8 (n / 256), BitVec.ofNat 8 n]
def u32 (n : Nat) : List Byte := u16 (n / 65536) ++ u16 n

/-- The link, code and argument bytes of a command message that spells a command (section 11.3). -/
def argsOf : Instr → Option (MgmtLink × Byte × List Byte)
  | .identify l => some (l, 1, [])
  | .claim l => some (l, 2, [])
  | .refresh l => some (l, 3, [])
  | .release l => some (l, 4, [])
  | .setTiming l w t => some (l, 5, [w, t])
  | .setPort l p e h pol src k th => some (l, 6, [p, e, h, pol, src, k, th])
  | .readPort l p => some (l, 7, [p])
  | .fabricRestart l => some (l, 8, [])
  | .stageMap l d st p => some (l, 9, [d, st, p])
  | .discardStaging l => some (l, 10, [])
  | .commitMap l => some (l, 11, [])
  | .readStaging l => some (l, 12, [])
  | .readMap l => some (l, 13, [])
  | .writeGroup l g v pr ms => some (l, 14, u16 g.toNat ++ [v, pr] ++ u8 ms.length ++ ms)
  | .readGroup l g => some (l, 15, u16 g.toNat)
  | .readRequests l p => some (l, 16, [p])
  | .readEvents l => some (l, 17, [])
  | .clearEvents l ks => some (l, 18, u16 ks.toNat)
  | .setMask l ks => some (l, 19, u16 ks.toNat)
  | .readCapture l => some (l, 20, [])
  | .clearCapture l => some (l, 21, [])
  | .readTallies l p => some (l, 22, [p])
  | .clearTallies l p => some (l, 23, [p])
  | .startMeter l m p d g => some (l, 24, [m, p, d, g])
  | .stopMeter l m => some (l, 25, [m])
  | .readMeter l m => some (l, 26, [m])
  | _ => none

/-- The check of a message over every byte before the check field. -/
def messageCheck (bytes : List Byte) : List Byte := u16 (crc poly16 (bytesBits bytes)).toNat

/-- The bytes with which a supervisor sends a command of this code and these arguments. -/
def commandMessage (code : Byte) (args : List Byte) : List Byte :=
  let bytes := u16 (args.length + 5) ++ [code] ++ args
  bytes ++ messageCheck bytes

/-- A message of as many bytes as its length field gives (R153, R187). -/
def readMessage (l : MgmtLink) (bytes : List Byte) : Instr :=
  if bytes.length < 5 then .messageCheckFailure l
  else if bytes.drop (bytes.length - 2) ≠ messageCheck (bytes.take (bytes.length - 2)) then .messageCheckFailure l
  else
    match (bytes.take (bytes.length - 2)).drop 2 with
    | code :: args => (readArgs l code args).getD (.unknownCommand l code)
    | [] => .messageCheckFailure l

/-- The bytes between two idle periods of a management link: one message of the length its first two bytes give;
cut short, it is a message whose check fails; what follows it is discarded without effect (R187). -/
def readBurst (l : MgmtLink) (bytes : List Byte) : Option Instr :=
  match bytes with
  | [] => none
  | [_] => some (.messageCheckFailure l)
  | b1 :: b0 :: _ =>
    let n := (b1 ++ b0 : BitVec 16).toNat
    if bytes.length < n then some (.messageCheckFailure l) else some (readMessage l (bytes.take n))

/-! ### Response messages (section 11.3, R187) -/

def statusCode : Status → Nat
  | .done => 0
  | .notSteering => 1
  | .held => 2
  | .notReady => 3
  | .full => 4
  | .empty => 5
  | .badArgument => 6
  | .meterBusy => 7

def flag (b : Bool) : List Byte := u8 b.toNat

def linkCode : LinkState → List Byte
  | .off => u8 0
  | .dark => u8 1
  | .aligning => u8 2
  | .exchange => u8 3
  | .up => u8 4
  | .faulted => u8 5

def holderCode : Option MgmtLink → List Byte
  | none => u8 0
  | some .a => u8 1
  | some .b => u8 2

def causeCode : StartCause → List Byte
  | .power => u8 0
  | .line => u8 1

def windowCode : GrantWindow → List Byte
  | .us2 => u8 0
  | .us4 => u8 1
  | .us8 => u8 2
  | .us16 => u8 3
  | .off => u8 4

def timeoutCode : ClaimTimeout → List Byte
  | .ms10 => u8 0
  | .ms50 => u8 1
  | .ms200 => u8 2
  | .ms1000 => u8 3

def policyCode : Policy → List Byte
  | .round => u8 0
  | .strict => u8 1
  | .classRound => u8 2
  | .sole => u8 3

def meterStateCode : MeterState → List Byte
  | .idle => u8 0
  | .counting => u8 1
  | .done => u8 2

def directionCode : Direction → List Byte
  | .ingress => u8 0
  | .egress => u8 1

def gateCode : Gate → List Byte
  | .ms1 => u8 0
  | .ms4 => u8 1
  | .ms8 => u8 2
  | .opened => u8 3

/-- The state and physical port of an entry; the port of a VOID entry is sent with every bit one. -/
def mappingCode : Mapping → List Byte
  | .void => u8 0 ++ u8 255
  | .parked p => u8 1 ++ u8 p.val
  | .active p => u8 2 ++ u8 p.val

/-- A list is sent as its count and then its entries. -/
def counted {α : Type} (f : α → List Byte) (xs : List α) : List Byte := u16 xs.length ++ xs.flatMap f

/-- A record of READ PORT's grant list (R92). -/
def grantCode (r : GrantReport) : List Byte :=
  let time := u8 (r.remaining.getD 255)
  match r.target with
  | .unicast d j => u8 r.tag.val ++ u8 0 ++ u8 r.cls.val ++ u8 d.val ++ u8 j.val ++ time
  | .multicast g k => u8 r.tag.val ++ u8 1 ++ u8 r.cls.val ++ u16 g.val ++ u8 k.val ++ time

/-- An entry of READ PORT's transmit queue (R108). -/
def txCode : TxReport → List Byte
  | .unicast src c d => u8 0 ++ u8 src.val ++ u8 c.val ++ u8 d.val
  | .copy k => u8 1 ++ u8 k.val

def mcastCode (q : McastRequest) : List Byte := u16 q.group.val ++ u8 q.cls.val

/-- The groups of READ PORT's data in the order of R165. -/
def portCode (r : PortReport) : List Byte :=
  linkCode r.link ++ flag r.presence ++ u16 r.goodMarks ++ u16 r.framingRun ++ u16 r.retry ++ u16 r.windowCount
    ++ flag r.enable ++ flag r.holdEnable ++ u8 r.threshold ++ flag r.sticky
    ++ u16 r.credit ++ u16 r.inFlight ++ policyCode r.policy ++ u8 r.sole.val ++ u8 r.turn ++ u8 r.u
    ++ (r.ptrs.cells.flatMap fun p => u8 p.val) ++ u16 r.deliveryLength
    ++ u8 r.nextTag.val ++ counted grantCode r.grants
    ++ u16 r.bufferCount ++ counted txCode r.queue ++ flag r.sending
    ++ counted mcastCode r.mcastQueue ++ counted (fun k => u8 k.val) r.delivery

/-- A destination or group given in one field (R177). -/
def oneField : CastItem → List Byte
  | .unicast d => u8 0 ++ u16 d.val
  | .multicast g => u8 1 ++ u16 g.val

/-- The record of the fault capture: kind, port, tag, cast, D or G, class; absent fields with every bit one. -/
def captureCode : Option FaultRecord → List Byte
  | none => List.replicate 7 0xFF#8
  | some (.lapse p t x c) => u8 0 ++ u8 p.val ++ u8 t.val ++ oneField x ++ u8 c.val
  | some (.late p t) => u8 1 ++ u8 p.val ++ u8 t.val ++ List.replicate 4 0xFF#8
  | some (.overrun p) => u8 2 ++ u8 p.val ++ List.replicate 5 0xFF#8
  | some (.creditExcess p) => u8 3 ++ u8 p.val ++ List.replicate 5 0xFF#8
  | some (.portFault p) => u8 4 ++ u8 p.val ++ List.replicate 5 0xFF#8

def talliesCode (t : Tallies) : List Byte :=
  u32 t.cellsIn ++ u32 t.cellsOut ++ u32 t.lapsed ++ u32 t.late ++ u32 t.refused ++ u32 t.checkErrors
    ++ u32 t.emptyFanouts

def identityCode (r : IdentityReport) : List Byte :=
  u16 r.vendor ++ u16 r.part ++ u8 r.revision ++ u8 r.plane.val ++ causeCode r.cause ++ flag r.tablesReady
    ++ holderCode r.holder ++ timeoutCode r.timeout ++ windowCode r.window ++ u16 r.discarded

/-- The data of a response in the order and widths of R187. -/
def dataCode : ResponseData → List Byte
  | .none => []
  | .identity r => identityCode r
  | .holder h => holderCode h
  | .claimed h t => holderCode h ++ timeoutCode t
  | .refreshed t => timeoutCode t
  | .number n => u16 n
  | .linkState x => linkCode x
  | .port r => portCode r
  | .staged position entries => u8 position ++ u16 entries
  | .committed applied withdrawn => u16 applied ++ u16 withdrawn
  | .staging es h => counted (fun e => u8 e.dest.val ++ mappingCode e.map) es ++ holderCode h
  | .map es => counted (fun e => mappingCode e.map ++ u16 e.drain) es
  | .group g e => u16 g.val ++ flag e.valid ++ flag e.prune ++ counted (fun d => u8 d.val) e.members
  | .requests p n hold blocked es =>
    u8 p.val ++ u16 n ++ flag hold ++ flag blocked ++ counted (fun x => u8 x.1.val ++ u8 x.2.1.val ++ u16 x.2.2) es
  | .visible ks => u16 ks.toNat
  | .events ks mask => u16 ks.toNat ++ u16 mask.toNat
  | .capture r more => captureCode r ++ flag more
  | .tallies t => talliesCode t
  | .meter st p d g n => meterStateCode st ++ u8 p.val ++ directionCode d ++ gateCode g ++ u16 n
  | .meterState st => meterStateCode st

/-- A response message as bytes (R187). -/
def responseMessage (r : Response) : List Byte :=
  let data := dataCode r.data
  let bytes := u16 (data.length + 6) ++ [r.code] ++ u8 (statusCode r.status) ++ data
  bytes ++ messageCheck bytes

end Sys2Proof.Machine.Formats
end

