-- ==== Sys2Proof/Safety.lean ====
section
/-! DEFINITION. Safety.lean: what the manual says of the part's state at all times, one predicate for each block
or law. Each holds at State.reset, and each alone is kept by every step. -/

namespace Sys2Proof.Machine

/-! ### Counting records, entries and references -/

/-- The UNICAST records on all lists that name `j` as their physical port. -/
def State.recordsNaming (s : State) (j : Port) : Nat :=
  ((List.finRange 32).map fun i => (s.records i).countP (·.naming j)).sum

/-- The UNICAST records on all lists that name destination `d`. -/
def State.recordsToward (s : State) (d : Dest) : Nat :=
  ((List.finRange 32).map fun i => (s.records i).countP (·.toward d)).sum

/-- The unicast cells for destination `d` in all transmit queues. -/
def State.cellsToward (s : State) (d : Dest) : Nat :=
  ((List.finRange 32).map fun j => (s.transmit.get j).queue.countP (TxEntry.isToward d)).sum

/-- The MULTICAST records on all lists that name slot `k`. -/
def State.recordsReserving (s : State) (k : SlotNo) : Nat :=
  ((List.finRange 32).map fun i => (s.records i).countP (·.reserves k)).sum

/-- How often slot `k` stands in the delivery queue and the transmit queue of `j` together. -/
def State.holdings (s : State) (j : Port) (k : SlotNo) : Nat :=
  (s.arbiters.get j).delivery.count k + (s.transmit.get j).queue.countP (TxEntry.isCopyOf k)

/-- The reference set of a slot; empty unless it is FILLED. -/
def Slot.refs : Slot → List Port
  | .free | .reserved _ _ _ => []
  | .filled _ _ _ _ refs => refs

def Slot.isReserved : Slot → Bool
  | .reserved _ _ _ => true
  | .free | .filled _ _ _ _ _ => false

/-! ### Resets and tables -/

/-- While the reset line holds the part nothing runs and every port is OFF (R170); otherwise table initialisation
runs exactly while the tables are not ready (R39, R41). -/
def State.ResetOk (s : State) : Prop :=
  (s.held ≠ none → s.tablesReady = false ∧ s.tableInit = none ∧ s.holder = none ∧ ∀ p, s.link p = .off) ∧
  (s.held = none → (s.tablesReady = true ↔ s.tableInit = none))

/-! ### Steering (R28, R157) -/

/-- The claim timer runs exactly while a link holds steering; the staging list is empty while none does; it holds
at most 16 entries, no two for one destination. -/
def State.SteeringOk (s : State) : Prop :=
  (s.holder = none ↔ s.claimTimer = none) ∧ (s.holder = none → s.staging = []) ∧
  s.staging.length ≤ 16 ∧ (s.staging.map StagedEntry.dest).Nodup

/-! ### The Request Matrix (R16) -/

/-- Every count is at most 63, and 0 for a destination whose Port Map entry is VOID; no initialisation of the
tables runs while they are ready. -/
def State.MatrixOk (s : State) : Prop :=
  (s.tableInit ≠ none → s.tablesReady = false) ∧
  ∀ i d c, s.count i d c ≤ 63 ∧ ((s.mapEntry d).map = .void → s.count i d c = 0)

/-! ### Link ports (R134, R93, R179) -/

/-- Every tally is at most 4,294,967,295 (R179). -/
def Tallies.Ok (t : Tallies) : Prop :=
  t.cellsIn ≤ 4294967295 ∧ t.cellsOut ≤ 4294967295 ∧ t.lapsed ≤ 4294967295 ∧ t.late ≤ 4294967295 ∧
  t.refused ≤ 4294967295 ∧ t.checkErrors ≤ 4294967295 ∧ t.emptyFanouts ≤ 4294967295

/-- What holds of a link port in each link state, and the ranges of its counts. -/
structure LinkPort.Ok (l : LinkPort) : Prop where
  /-- The port is OFF exactly while enable is no (R134, R136). -/
  off_iff : l.link = .off ↔ l.enable = false
  /-- DARK without a card, ALIGNING, EXCHANGE and UP with one (R135, R136). -/
  dark : l.link = .dark → l.presence = false
  present : l.link = .aligning ∨ l.link = .exchange ∨ l.link = .up → l.presence = true
  /-- The exchange timer runs in EXCHANGE alone, the window in EXCHANGE and UP alone (R139, R144). -/
  timer_iff : l.exchangeTimer ≠ none ↔ l.link = .exchange
  window_iff : l.window ≠ none ↔ l.link = .exchange ∨ l.link = .up
  /-- A window that is stopped has count 0, and counts lie in their ranges (R134, R144). -/
  windowCount : l.window = none → l.windowCount = 0
  windowCount_le : l.windowCount ≤ 255
  threshold : 1 ≤ l.threshold ∧ l.threshold ≤ 255
  /-- Good marks are counted in ALIGNING alone and never stay at 16 (R137). -/
  goodMarks : l.goodMarks < 16 ∧ (l.link ≠ .aligning → l.goodMarks = 0)
  /-- Framing failures are counted in EXCHANGE and UP alone and never stay at 4 (R138). -/
  framingRun : l.framingRun < 4 ∧ (l.framingRun ≠ 0 → l.link = .exchange ∨ l.link = .up)
  /-- The retry count is 8 in FAULTED alone, and 0 in OFF, DARK and UP (R140, R141, R150). -/
  retry_le : l.retry ≤ 8 ∧ (l.retry = 8 → l.link = .faulted)
  retry_zero : l.link = .off ∨ l.link = .dark ∨ l.link = .up → l.retry = 0
  /-- The buffer count lies between 8 and 64 in UP and is 0 otherwise (R93). -/
  bufferCount : if l.link = .up then 8 ≤ l.bufferCount ∧ l.bufferCount ≤ 64 else l.bufferCount = 0
  tallies : l.tallies.Ok

def State.LinksOk (s : State) : Prop := ∀ p, (s.links.get p).Ok

/-! ### Credit (R46, R93) -/

/-- Credit is at most the buffer count, which is 0 while the port is not UP. -/
def State.CreditOk (s : State) : Prop :=
  ∀ j, (s.arbiters.get j).credit ≤ (s.links.get j).bufferCount ∧
    (s.link j ≠ .up → (s.links.get j).bufferCount = 0)

/-! ### Ports that are not UP (R18, R46, R71, R104, R114) -/

/-- A port that is not UP holds nothing to schedule, as ingress or as egress. -/
def State.IdlePort (s : State) (p : Port) : Prop :=
  s.intakes.get p = Intake.idle ∧ s.matrix.get p = Row.zero ∧ s.grantLists.get p = GrantList.empty ∧
  s.mcastQueues.get p = [] ∧ s.transmit.get p = Transmit.empty ∧ s.arbiters.get p = (s.arbiters.get p).idle ∧
  (s.links.get p).bufferCount = 0

/-- Every port that is not UP is idle, and every UNICAST record names an UP port (R77). -/
def State.IdleOk (s : State) : Prop :=
  (∀ p, s.link p ≠ .up → s.IdlePort p) ∧
  ∀ i j, ∀ r ∈ s.records i, r.naming j = true → s.link j = .up

/-! ### In-flight and drain counts (R45, R26) -/

/-- In-flight is the records naming the port plus its transmit queue, at most 8 (R45). -/
def State.InFlightOk (s : State) : Prop :=
  ∀ j, (s.arbiters.get j).inFlight = s.recordsNaming j + (s.transmit.get j).queue.length ∧
    (s.arbiters.get j).inFlight ≤ 8

/-- A drain count is the records naming the destination plus the cells for it in transmit queues (R26); all are 0
while the tables are not ready, and no initialisation runs while they are (R39). -/
def State.DrainOk (s : State) : Prop :=
  (s.tableInit ≠ none → s.tablesReady = false) ∧
  ∀ d, (s.portMap.get d).drain = s.recordsToward d + s.cellsToward d ∧
    (s.tablesReady = false → (s.portMap.get d).drain = 0)

/-! ### Replication Buffer slots (R62, R121, R122) -/

/-- A RESERVED slot is named by exactly one record, on its source's list, with its group and class; a slot that is
not RESERVED is named by none. A FILLED slot's reference set is not empty, ascending, and is exactly the ports
whose two queues hold the slot, once. -/
def State.SlotOk (s : State) (k : SlotNo) : Prop :=
  (s.recordsReserving k = if (s.slots.get k).isReserved then 1 else 0) ∧
  (∀ i, ∀ r ∈ s.records i, ∀ g, r.target = .multicast g k → s.slots.get k = .reserved i g r.cls) ∧
  (∀ j, s.holdings j k = if j ∈ (s.slots.get k).refs then 1 else 0) ∧
  (∀ src g c x refs, s.slots.get k = .filled src g c x refs → refs ≠ [] ∧ refs.Pairwise (· < ·))

def State.SlotsOk (s : State) : Prop := ∀ k, s.SlotOk k

/-! ### Bounds of queues, lists and counts -/

/-- A queued REQUEST has a count of 1 to 15 (R2). -/
def RequestWord.Ok : RequestWord → Prop
  | .request _ _ n => n ≠ 0
  | .group _ _ => True

/-- An intake queue holds at most 16 words (R1), a multicast request queue at most 16 records (R114), a grant list
at most 4 records with distinct tags (R71). -/
def State.QueuesOk (s : State) : Prop :=
  ∀ p, (s.intakes.get p).queue.length ≤ 16 ∧ (∀ w ∈ (s.intakes.get p).queue, w.Ok) ∧
    (s.mcastQueues.get p).length ≤ 16 ∧
    (s.records p).length ≤ 4 ∧ ((s.records p).map GrantRecord.tag).Nodup

/-- A cell on its way has a payload length of 1 to 128 and no more payload bytes than that (R98, R121). -/
def CellContent.Ok (x : CellContent) : Prop := 1 ≤ x.length ∧ x.length ≤ 128 ∧ x.payload.length ≤ x.length

def TxEntry.Ok : TxEntry → Prop
  | .unicast _ _ _ x => x.Ok
  | .copy _ => True

def Slot.ContentOk : Slot → Prop
  | .filled _ _ _ x _ => x.Ok
  | .free | .reserved _ _ _ => True

/-- Every cell on its way is well formed, and a transmitter sends only while its queue holds an entry (R100). -/
def State.CellsOk (s : State) : Prop :=
  (∀ j, (∀ e ∈ (s.transmit.get j).queue, e.Ok) ∧
    ((s.transmit.get j).sending = true → (s.transmit.get j).queue ≠ [])) ∧
  ∀ k, (s.slots.get k).ContentOk

/-- A gate timer runs exactly while its channel is COUNTING under a timed gate, and the count stays in its range (R181). -/
def Meter.Ok (m : Meter) : Prop :=
  (m.timer ≠ none ↔ m.state = .counting ∧ m.gate ≠ .opened) ∧ m.count ≤ 65535

/-- The ranges of the arbiters' turn and u (R44), the meters (R181), the discarded-message counts (R153), and the
law of the fault capture: more-faults is set only while the record is full (R177). -/
def State.CountsOk (s : State) : Prop :=
  (∀ j, (s.arbiters.get j).turn ≤ 15 ∧ (s.arbiters.get j).u ≤ 15) ∧
  (∀ m, (s.meters.get m).Ok) ∧ s.discardedA ≤ 65535 ∧ s.discardedB ≤ 65535 ∧
  (s.moreFaults = true → s.capture ≠ none)

/-! ### Words for the statements -/

/-- What a well-framed word or cell leaves of the framing-failure run in EXCHANGE and UP: 0 (R138). -/
def State.framed (s : State) (p : Port) : State := s.updLink p fun l => { l with framingRun := 0 }

/-- The commands that are a word or cell, or a missing frame, on the upstream link of port `p`. -/
def arrivesOn (p : Port) : Instr → Prop
  | .mark q | .framingFailure q | .failedWord q | .hello q _ | .request q _ _ _ | .groupRequest q _ _ | .resync q
  | .credit q _ | .cell q _ => q = p
  | _ => False

/-- The commands that a full reset or the reset line does not shut out while the part is held (R170). -/
def actsWhileHeld : Instr → Bool
  | .powerOn _ _ _ | .resetLineRelease _ | .presenceChange _ _ => true
  | _ => false

/-- A mutating command (R156), with its link and its code. -/
def mutates : Instr → Option (MgmtLink × Byte)
  | .setTiming l _ _ => some (l, 5)
  | .setPort l _ _ _ _ _ _ _ => some (l, 6)
  | .fabricRestart l => some (l, 8)
  | .stageMap l _ _ _ => some (l, 9)
  | .discardStaging l => some (l, 10)
  | .commitMap l => some (l, 11)
  | .writeGroup l _ _ _ _ => some (l, 14)
  | .clearCapture l => some (l, 21)
  | .clearTallies l _ => some (l, 23)
  | .startMeter l _ _ _ _ => some (l, 24)
  | .stopMeter l _ => some (l, 25)
  | _ => none

/-- The place of a candidate in the order of a policy: the policy takes the candidate of the lowest place
(R52 to R55). Distances are counted upwards from the pointer, modulo 32. -/
def Arbiter.place (a : Arbiter) (x : Candidate) : Nat :=
  match a.policy with
  | .round => ((x.ingress - a.ptrs.get 0).val * 4 + x.cls.val) * 64 + x.dest.val
  | .strict => (x.cls.val * 32 + x.ingress.val) * 64 + x.dest.val
  | .classRound => (x.cls.val * 32 + (x.ingress - a.ptrs.get x.cls).val) * 64 + x.dest.val
  | .sole => x.cls.val * 64 + x.dest.val

/-- The state after `n` absorptions in a row. -/
def State.afterAbsorptions : Nat → State → State
  | 0, s => s
  | n + 1, s =>
    match exec .absorption s with
    | .next t => t.afterAbsorptions n
    | _ => s

/-! ### What is sent, as numbers (chapter 11) -/

/-- `n` in `k` bytes, most significant byte first. -/
def bigEndian (k n : Nat) : List Byte := (List.range k).map fun i => BitVec.ofNat 8 (n / 256 ^ (k - 1 - i))

/-- Fields in a row, each a width in bytes and a number. -/
def fieldBytes (fields : List (Nat × Nat)) : List Byte := fields.flatMap fun f => bigEndian f.1 f.2

/-- UNICAST 0 and MULTICAST 1. -/
def CastItem.castNumber : CastItem → Nat
  | .unicast _ => 0
  | .multicast _ => 1

/-- The destination or group of a word or cell. -/
def CastItem.number : CastItem → Nat
  | .unicast d => d.val
  | .multicast g => g.val

/-- REQUEST 0 and GROUP REQUEST 1. -/
def RefusedItem.kindNumber : RefusedItem → Nat
  | .request _ => 0
  | .group _ => 1

def RefusedItem.number : RefusedItem → Nat
  | .request d => d.val
  | .group g => g.val

/-- The reasons of a REFUSE, the statuses, and the enumerated fields of responses, each in the order in which the
manual numbers them from 0 (R185, R187). -/
def refuseReasons : List RefuseReason := [.overrun, .ceiling, .noRoute, .noGroup, .mcastFull]
def statuses : List Status := [.done, .notSteering, .held, .notReady, .full, .empty, .badArgument, .meterBusy]
def linkStates : List LinkState := [.off, .dark, .aligning, .exchange, .up, .faulted]
def holders : List (Option MgmtLink) := [none, some .a, some .b]
def startCauses : List StartCause := [.power, .line]
def policies : List Policy := [.round, .strict, .classRound, .sole]
def grantWindows : List GrantWindow := [.us2, .us4, .us8, .us16, .off]
def claimTimeouts : List ClaimTimeout := [.ms10, .ms50, .ms200, .ms1000]
def meterStates : List MeterState := [.idle, .counting, .done]
def directions : List Direction := [.ingress, .egress]
def gates : List Gate := [.ms1, .ms4, .ms8, .opened]

/-- The body of a control word as a number, by the bits of section 11.1; bits of no field are 0 (R185). -/
def DownWord.bodyNumber : DownWord → Nat
  | .mark | .hold | .resume | .synced => 0
  | .hello plane p => plane.val * 2 ^ 31 + p.val * 2 ^ 26
  | .grant tag c x | .lapsed tag c x =>
    tag.val * 2 ^ 26 + x.castNumber * 2 ^ 25 + c.val * 2 ^ 23 + x.number * 2 ^ 13
  | .refuse reason x c n =>
    refuseReasons.idxOf reason * 2 ^ 31 + x.kindNumber * 2 ^ 30 + x.number * 2 ^ 20 + c.val * 2 ^ 18 + n * 2 ^ 14
  | .withdrawn d => d.val * 2 ^ 28

/-- The header of a downstream cell as a number, by the bits of section 11.2 (R101). -/
def DownCell.headerNumber (x : DownCell) : Nat :=
  0x30 * 2 ^ 58 + x.src.val * 2 ^ 53 + x.cls.val * 2 ^ 51 + x.item.castNumber * 2 ^ 50 + x.item.number * 2 ^ 40
    + x.content.first.toNat * 2 ^ 39 + x.content.last.toNat * 2 ^ 38 + x.content.length * 2 ^ 30 + x.content.flow.toNat * 2 ^ 6

/-- State and port of a Port Map entry; the port of a VOID entry is absent, every bit one (R187). -/
def Mapping.fields : Mapping → List (Nat × Nat)
  | .void => [(1, 0), (1, 255)]
  | .parked p => [(1, 1), (1, p.val)]
  | .active p => [(1, 2), (1, p.val)]

/-- A record of READ PORT's grant list (R92). -/
def GrantReport.fields (r : GrantReport) : List (Nat × Nat) :=
  match r.target with
  | .unicast d j => [(1, r.tag.val), (1, 0), (1, r.cls.val), (1, d.val), (1, j.val), (1, r.remaining.getD 255)]
  | .multicast g k => [(1, r.tag.val), (1, 1), (1, r.cls.val), (2, g.val), (1, k.val), (1, r.remaining.getD 255)]

/-- An entry of READ PORT's transmit queue (R108). -/
def TxReport.fields : TxReport → List (Nat × Nat)
  | .unicast src c d => [(1, 0), (1, src.val), (1, c.val), (1, d.val)]
  | .copy k => [(1, 1), (1, k.val)]

/-- The data of READ PORT in the order of R165. -/
def PortReport.fields (r : PortReport) : List (Nat × Nat) :=
  [(1, linkStates.idxOf r.link), (1, r.presence.toNat), (2, r.goodMarks), (2, r.framingRun), (2, r.retry),
    (2, r.windowCount), (1, r.enable.toNat), (1, r.holdEnable.toNat), (1, r.threshold), (1, r.sticky.toNat),
    (2, r.credit), (2, r.inFlight), (1, policies.idxOf r.policy), (1, r.sole.val), (1, r.turn), (1, r.u)]
  ++ r.ptrs.cells.map (fun p => (1, p.val))
  ++ [(2, r.deliveryLength), (1, r.nextTag.val), (2, r.grants.length)] ++ r.grants.flatMap GrantReport.fields
  ++ [(2, r.bufferCount), (2, r.queue.length)] ++ r.queue.flatMap TxReport.fields
  ++ [(1, r.sending.toNat), (2, r.mcastQueue.length)] ++ r.mcastQueue.flatMap (fun q => [(2, q.group.val), (1, q.cls.val)])
  ++ [(2, r.delivery.length)] ++ r.delivery.map fun k => (1, k.val)

/-- The record of the fault capture: kind, port, tag, cast, D or G, class; an absent field has every bit one (R177, R187). -/
def captureFields : Option FaultRecord → List (Nat × Nat)
  | none => [(1, 255), (1, 255), (1, 255), (1, 255), (2, 65535), (1, 255)]
  | some (.lapse p tag x c) => [(1, 0), (1, p.val), (1, tag.val), (1, x.castNumber), (2, x.number), (1, c.val)]
  | some (.late p tag) => [(1, 1), (1, p.val), (1, tag.val), (1, 255), (2, 65535), (1, 255)]
  | some (.overrun p) => [(1, 2), (1, p.val), (1, 255), (1, 255), (2, 65535), (1, 255)]
  | some (.creditExcess p) => [(1, 3), (1, p.val), (1, 255), (1, 255), (2, 65535), (1, 255)]
  | some (.portFault p) => [(1, 4), (1, p.val), (1, 255), (1, 255), (2, 65535), (1, 255)]

/-- The data of every response, in the order of its command's rule and the widths of the response table (R187). -/
def ResponseData.fields : ResponseData → List (Nat × Nat)
  | .none => []
  | .identity r =>
    [(2, r.vendor), (2, r.part), (1, r.revision), (1, r.plane.val), (1, startCauses.idxOf r.cause), (1, r.tablesReady.toNat),
      (1, holders.idxOf r.holder), (1, claimTimeouts.idxOf r.timeout), (1, grantWindows.idxOf r.window), (2, r.discarded)]
  | .holder h => [(1, holders.idxOf h)]
  | .claimed h t => [(1, holders.idxOf h), (1, claimTimeouts.idxOf t)]
  | .refreshed t => [(1, claimTimeouts.idxOf t)]
  | .number n => [(2, n)]
  | .linkState x => [(1, linkStates.idxOf x)]
  | .port r => r.fields
  | .staged position entries => [(1, position), (2, entries)]
  | .committed applied withdrawn => [(2, applied), (2, withdrawn)]
  | .staging es h => (2, es.length) :: es.flatMap (fun e => (1, e.dest.val) :: e.map.fields) ++ [(1, holders.idxOf h)]
  | .map es => (2, es.length) :: es.flatMap fun e => e.map.fields ++ [(2, e.drain)]
  | .group g e =>
    [(2, g.val), (1, e.valid.toNat), (1, e.prune.toNat), (2, e.members.length)] ++ e.members.map fun d => (1, d.val)
  | .requests p n hold blocked es =>
    [(1, p.val), (2, n), (1, hold.toNat), (1, blocked.toNat), (2, es.length)] ++
      es.flatMap fun x => [(1, x.1.val), (1, x.2.1.val), (2, x.2.2)]
  | .visible ks => [(2, ks.toNat)]
  | .events ks mask => [(2, ks.toNat), (2, mask.toNat)]
  | .capture r more => captureFields r ++ [(1, more.toNat)]
  | .tallies t =>
    [(4, t.cellsIn), (4, t.cellsOut), (4, t.lapsed), (4, t.late), (4, t.refused), (4, t.checkErrors), (4, t.emptyFanouts)]
  | .meter st p d g n => [(1, meterStates.idxOf st), (1, p.val), (1, directions.idxOf d), (1, gates.idxOf g), (2, n)]
  | .meterState st => [(1, meterStates.idxOf st)]

end Sys2Proof.Machine
end

