-- ==== Sys2Proof/Certificates/Slice0/Obligations.lean ====
section
/-! DEFINITION. Certificates/Slice0/Obligations.lean: the statements about the model, in the order of OBLIGATIONS.json.
`out`, the record of what the part sends, and the `due` operand of an expiry are the model's conventions (logs 7 and 2). -/

section Statements

open Sys2Proof Sys2Proof.Machine

/-! ### Steps -/

/-- With a command in front, a step is that command on the state with the queue's rest; with none, one clock period
passes (the model's choice, log 1). -/
def Obligations.StepRunsTheFrontCommand : Prop :=
  ∀ s : State,
    (∀ c rest, s.pending = c :: rest → step s = exec c { s with pending := rest }) ∧
    (s.pending = [] → step s = .next { s with now := s.now + 1 })

/-! ### Laws that hold after reset, and that every step keeps -/

def Obligations.ResetStateMeetsEveryLaw : Prop :=
  State.reset.ResetOk ∧ State.reset.SteeringOk ∧ State.reset.MatrixOk ∧ State.reset.LinksOk ∧ State.reset.CreditOk ∧
  State.reset.IdleOk ∧ State.reset.InFlightOk ∧ State.reset.DrainOk ∧ State.reset.SlotsOk ∧ State.reset.QueuesOk ∧
  State.reset.CellsOk ∧ State.reset.CountsOk

/-- The laws of resets and table initialisation (R39, R41, R170), and of steering and the staging list (R28, R157). -/
def Obligations.StepsKeepResetAndSteeringLaws : Prop :=
  (∀ s t : State, s.ResetOk → step s = .next t → t.ResetOk) ∧
  ∀ s t : State, s.SteeringOk → step s = .next t → t.SteeringOk

def Obligations.StepsKeepRequestMatrixLaw : Prop :=
  ∀ s t : State, s.MatrixOk → step s = .next t → t.MatrixOk

/-- The ranges and states of every link port (R134, R93, R179), and credit within the buffer count (R46). A part held
in reset with a port UP, which no run reaches, would keep a lost presence without moving the port; the law of resets,
itself kept by every step, shuts that out. -/
def Obligations.StepsKeepLinkPortAndCreditLaws : Prop :=
  (∀ s t : State, s.ResetOk → s.LinksOk → step s = .next t → t.LinksOk) ∧
  ∀ s t : State, s.CreditOk → step s = .next t → t.CreditOk

def Obligations.StepsKeepPortsThatAreNotUpIdle : Prop :=
  ∀ s t : State, s.IdleOk → step s = .next t → t.IdleOk

def Obligations.StepsKeepInFlightExact : Prop :=
  ∀ s t : State, s.InFlightOk → step s = .next t → t.InFlightOk

def Obligations.StepsKeepDrainCountsExact : Prop :=
  ∀ s t : State, s.DrainOk → step s = .next t → t.DrainOk

def Obligations.StepsKeepSlotsAndReferencesExact : Prop :=
  ∀ s t : State, s.SlotsOk → step s = .next t → t.SlotsOk

/-- Queues, lists and tags (R1, R71, R114), cells on their way (R98, R100), and the counters, meters and capture (R44, R153, R177, R181). -/
def Obligations.StepsKeepQueuesCellsAndCountsInRange : Prop :=
  (∀ s t : State, s.QueuesOk → step s = .next t → t.QueuesOk) ∧
  (∀ s t : State, s.CellsOk → step s = .next t → t.CellsOk) ∧
  ∀ s t : State, s.CountsOk → step s = .next t → t.CountsOk

/-- What follows from the laws: a drain count is at most 384 (R22), a transmit queue holds at most 8 entries (R98), and
a delivery queue holds no slot twice and none that the port's transmit queue holds (R62). -/
def Obligations.LawsBoundDrainCountsAndEgressQueues : Prop :=
  ∀ s : State, s.InFlightOk → s.DrainOk → s.QueuesOk → s.SlotsOk →
    (∀ d, (s.portMap.get d).drain ≤ 384) ∧
    ∀ j, (s.transmit.get j).queue.length ≤ 8 ∧ (s.arbiters.get j).delivery.Nodup ∧
      (s.arbiters.get j).delivery.length ≤ 64 ∧
      ∀ k ∈ (s.arbiters.get j).delivery, TxEntry.copy k ∉ (s.transmit.get j).queue

/-! ### Formats (chapter 11) -/

/-- Reception: a word is taken on its check, its kind and its fields alone (unused body bits are not read), a bad check
or an undefined upstream kind is a failed word, and a damaged cell is a failed word and 22 positions, each a failed word
or a framing failure (R185, R186). Sending: every word has its kind code, a body of its fields at the bits of section
11.1 with zeros between, and a good check; every cell has the header of R101 at the bits of section 11.2, the payload
up to its length and zeros behind it, and its check; every response has length, code, status, the data fields of its
command's rule in their order and widths, and its check (R187). That a position begins a damaged cell is given from
outside (log 26), and READ MAP's entries stand behind their count (log 13). -/
def Obligations.SentFormatsCarryTheirFieldsAndWordsAreTakenOnThemAlone : Prop :=
  (∀ p : Port,
    (∀ body, Formats.readWord p (Formats.makeWord 0x00#6 body) = .mark p) ∧
    (∀ (n : Fin 128) (x : BitVec 27),
      Formats.readWord p (Formats.makeWord 0x01#6 (x ++ (BitVec.ofFin n : BitVec 7))) = .hello p n) ∧
    (∀ (d : Dest) (c : Cls) (n : Fin 16) (x : BitVec 22),
      Formats.readWord p
        (Formats.makeWord 0x02#6 (Formats.destBits d ++ Formats.clsBits c ++ (BitVec.ofFin n : BitVec 4) ++ x)) =
          .request p d c n) ∧
    (∀ (g : Group) (c : Cls) (x : BitVec 22),
      Formats.readWord p (Formats.makeWord 0x03#6 (Formats.groupBits g ++ Formats.clsBits c ++ x)) =
        .groupRequest p g c) ∧
    (∀ body, Formats.readWord p (Formats.makeWord 0x04#6 body) = .resync p) ∧
    (∀ (n : Fin 32) (x : BitVec 29),
      Formats.readWord p (Formats.makeWord 0x05#6 ((BitVec.ofFin n : BitVec 5) ++ x)) = .credit p n) ∧
    (∀ (kind : BitVec 6) body, 5 < kind.toNat → Formats.readWord p (Formats.makeWord kind body) = .failedWord p) ∧
    (∀ w : BitVec 48, Formats.wordCheck w ≠ Formats.wordCheckOf w → Formats.readWord p w = .failedWord p) ∧
    ∀ (bits : List Bool) (frames : List Bool), 1104 ≤ bits.length → Formats.ofBits 6 (bits.take 6) ≠ 0x10#6 →
      frames.length = 22 →
      Formats.readStream p 0 ((true, true) :: frames.map fun f => (f, false)) bits =
        (.failedWord p :: frames.map fun f => if f then .failedWord p else .framingFailure p, 0, bits.drop 1104)) ∧
  (∀ w : DownWord, Formats.wordCheck (Formats.downWord w) = Formats.wordCheckOf (Formats.downWord w) ∧
    (Formats.wordKind (Formats.downWord w)).toNat =
      (match w with
      | .mark => 0x00 | .hello .. => 0x21 | .grant .. => 0x22 | .lapsed .. => 0x23 | .refuse .. => 0x24
      | .hold => 0x25 | .resume => 0x26 | .withdrawn .. => 0x27 | .synced => 0x28) ∧
    ((∀ r x c n, w = .refuse r x c n → n < 16) →
      (Formats.wordBody (Formats.downWord w)).toNat = w.bodyNumber)) ∧
  (∀ x : DownCell, x.content.length ≤ 128 →
    (Formats.downHeader x).toNat = x.headerNumber ∧
    (Formats.payloadField x.content).length = 128 ∧
    (∀ k, k < 128 → (Formats.payloadField x.content)[k]? =
      some (if k < x.content.length then x.content.payload[k]?.getD 0 else 0)) ∧
    Formats.downCell x = bigEndian 8 x.headerNumber ++ Formats.payloadField x.content ++
      bigEndian 4 (Formats.cellCheck (Formats.downHeader x) (Formats.payloadField x.content)).toNat) ∧
  ∀ r : Response,
    let front := fieldBytes ([(2, (fieldBytes r.data.fields).length + 6), (1, r.code.toNat), (1, statuses.idxOf r.status)] ++
      r.data.fields)
    Formats.responseMessage r =
      front ++ bigEndian 2 (Formats.crc Formats.poly16 (Formats.bytesBits front)).toNat

/-- Reading what a line card sends gives back the command: every upstream word kind, and every cell, with every field
at every value. -/
def Obligations.UpstreamWordsAndCellsReadBack : Prop :=
  (∀ (p : Port) (c : Instr) (w : BitVec 48), arrivesOn p c → Formats.upWord c = some w → Formats.readWord p w = c) ∧
  ∀ (p : Port) (x : UpCell),
    Formats.readCell p (Formats.upHeader x) x.payload (Formats.cellCheck (Formats.upHeader x) x.payload) = .cell p x

/-- Reading what a supervisor sends gives back the command: every one of the 26 commands, with every argument at every
value its fields carry, whatever bytes follow before the idle period (R187). -/
def Obligations.CommandMessagesReadBack : Prop :=
  ∀ (c : Instr) (l : MgmtLink) (code : Byte) (args : List Byte) (after : List Byte), c.wf = true →
    Formats.argsOf c = some (l, code, args) →
    Formats.readBurst l (Formats.commandMessage code args ++ after) = some c

/-! ### Events, capture and tallies (chapter 9) -/

/-- Raising a kind puts it into the flag set of both views and changes nothing else (R173); a line is asserted exactly
while its visible flags are not empty and the reset line is not asserted (R174). -/
def Obligations.RaisingSetsBothViewsAndDrivesTheAlertLines : Prop :=
  (∀ (s : State) (k : EventKind) (l : MgmtLink),
    (∀ k' : EventKind, ((s.raise k).view l).flags.getLsbD k'.index =
      (decide (k' = k) || (s.view l).flags.getLsbD k'.index)) ∧
    ((s.raise k).view l).mask = (s.view l).mask ∧
    s.raise k = { s with viewA := (s.raise k).viewA, viewB := (s.raise k).viewB }) ∧
  ∀ (s : State) (l : MgmtLink), s.alert l = true ↔
    s.held = none ∧ ∃ k : EventKind, (s.view l).flags.getLsbD k.index = true ∧ (s.view l).mask.getLsbD k.index = true

/-- Offers are taken one after another: the first fills an empty record and raises FAULT_CAPTURED, every other sets
more-faults; of several blocks' offers at one event the first of one of them comes first, whichever (R177, log 3). -/
def Obligations.FirstOfferFillsTheCaptureOthersSetMoreFaults : Prop :=
  (∀ (s : State) (f : FaultRecord), s.capture = none →
    s.offer f = { s with capture := some f }.raise .faultCaptured) ∧
  (∀ (s : State) (f r : FaultRecord), s.capture = some r → s.offer f = { s with moreFaults := true }) ∧
  ∀ (s : State) (gs : List (List FaultRecord)),
    (gs.flatten = [] → s.offerGroups gs = s) ∧
    (gs.flatten ≠ [] → ∀ r, s.capture = some r →
      (s.offerGroups gs).capture = some r ∧ (s.offerGroups gs).moreFaults = true) ∧
    (gs.flatten ≠ [] → s.capture = none →
      (∃ g ∈ gs, ∃ f, g.head? = some f ∧ (s.offerGroups gs).capture = some f) ∧
      (s.offerGroups gs).moreFaults = (s.moreFaults || decide (1 < gs.flatten.length)) ∧
      ∀ l, (s.offerGroups gs).view l = (s.view l).raise .faultCaptured)

/-! ### Resets and tables -/

/-- POWER_ON and the release of the reset line begin the full reset: every block at its full-reset values, with the
strap and the presence inputs taken, the start record set and table initialisation begun (R169, R170). Its completion
leaves every entry VOID and every group invalid, the tables ready and TABLES_READY raised (R39, R41); a completion of
an abandoned initialisation has no effect (R40). The model's choices: a release of a line that is not asserted has no
effect (log 9), the clock, `out`, `freeCount` and `pending` go on over a full reset (log 20), and the tables already
hold VOID and invalid entries before the completion (log 15). -/
def Obligations.FullResetsSetEveryBlock : Prop :=
  (∀ (strap : Plane) (s : State),
    (∀ presence : BitVec 32, exec (.powerOn strap presence false) s = .next
      { State.reset with
        links := Bank.tab fun p => LinkPort.reset (presence.getLsbD p.val)
        tableInit := some (s.now + 4000)
        plane := strap, startCause := .power
        now := s.now, out := s.out, freeCount := s.freeCount, pending := s.pending }) ∧
    (∀ cause, s.held = some cause → exec (.resetLineRelease strap) s = .next
      { State.reset with
        links := Bank.tab fun p => LinkPort.reset (s.links.get p).presence
        tableInit := some (s.now + 4000)
        plane := strap, startCause := cause
        now := s.now, out := s.out, freeCount := s.freeCount, pending := s.pending }) ∧
    (s.held = none → exec (.resetLineRelease strap) s = .next s)) ∧
  ∀ (due : Time) (s : State), s.held = none →
    (s.tableInit = some due → exec (.tableInitialisationCompletion due) s = .next
      ({ s with
        now := max s.now due
        portMap := Bank.fill ⟨.void, 0⟩
        groups := Bank.fill ⟨false, [], false⟩
        tablesReady := true
        tableInit := none }.raise .tablesReady)) ∧
    (s.tableInit ≠ some due → exec (.tableInitialisationCompletion due) s = .next s)

/-- Assertion of the reset line, and power applied with it asserted, hold the part, and the release will record LINE,
or POWER (R169, R170; the values held meanwhile are the model's, log 6). While held the part takes nothing and sends
nothing, its alert lines are released, and a presence input's level is only kept (log 19). -/
def Obligations.ResetLineHoldsThePart : Prop :=
  ((∀ s : State, s.held = none →
    ∃ t, exec .resetLineAssert s = .next t ∧ t.held = some .line ∧ t.out = s.out ∧ (∀ l, t.alert l = false) ∧
      t.tableInit = none ∧ t.claimTimer = none ∧ ∀ p, t.link p = .off ∧ (t.links.get p).presence = (s.links.get p).presence) ∧
  ∀ (s : State) (strap : Plane) (presence : BitVec 32),
    ∃ t, exec (.powerOn strap presence true) s = .next t ∧ t.held = some .power ∧ t.out = s.out ∧
      (∀ l, t.alert l = false) ∧ t.tableInit = none ∧ t.claimTimer = none ∧
      ∀ p, t.link p = .off ∧ (t.links.get p).presence = presence.getLsbD p.val) ∧
  ∀ s : State, s.held ≠ none →
    (∀ c : Instr, actsWhileHeld c = false → exec c s = .next s) ∧
    (∀ p present, exec (.presenceChange p present) s = .next (s.updLink p fun l => { l with presence := present })) ∧
    (∀ l, s.alert l = false) ∧ ∀ p, s.fillWord p = none

/-! ### Link ports (chapter 7) -/

/-- Each change of a presence input: the item, PRESENCE_CHANGE, and the move of R135's table. In the cells that the
table marks as ones that cannot occur the port does not move, which is the model's choice (log 9). -/
def Obligations.PresenceChangesFollowTheirTable : Prop :=
  ∀ (p : Port) (present : Bool) (s : State), s.held = none → (s.links.get p).presence ≠ present →
    let s1 := (s.updLink p fun l => { l with presence := present }).raise .presenceChange
    let dark : LinkPort → LinkPort := fun l =>
      { l with
        link := .dark, goodMarks := 0, framingRun := 0, exchangeTimer := none, retry := 0, window := none,
        windowCount := 0 }
    exec (.presenceChange p present) s = .next
      (match s.link p, present with
      | .dark, true => s1.updLink p fun l => { l with link := .aligning, goodMarks := 0 }
      | .aligning, false | .exchange, false => s1.updLink p dark
      | .up, false => s1.leaveUp p dark
      | _, _ => s1)

/-- What a port does with arrivals it does not act on: OFF, DARK and FAULTED receive nothing, ALIGNING uses a position
for alignment only, EXCHANGE discards everything but HELLO and failed words (R142, R3, R80, R96). -/
def Obligations.ArrivalsNotActedOnAreDiscarded : Prop :=
  ∀ (p : Port) (c : Instr) (s : State), s.held = none → arrivesOn p c →
    (s.link p = .off ∨ s.link p = .dark ∨ s.link p = .faulted → exec c s = .next s) ∧
    (s.link p = .aligning → c ≠ .mark p → exec c s = .next (s.updLink p fun l => { l with goodMarks := 0 })) ∧
    (s.link p = .exchange → c ≠ .framingFailure p → c ≠ .failedWord p → (∀ n, c ≠ .hello p n) →
      exec c s = .next (s.framed p)) ∧
    (s.link p = .up → exec (.mark p) s = .next (s.framed p))

/-- A good MARK in ALIGNING raises the good-mark run; the sixteenth takes the port to EXCHANGE with HELLO sent and both
timers started for 10 ms (R137, R139). Framing failures in EXCHANGE and UP raise their run, and at the fourth alignment
is lost, with teardown when the port was UP (R138). -/
def Obligations.AlignmentIsGainedAndLost : Prop :=
  (∀ (p : Port) (s : State), s.held = none → s.link p = .aligning →
    ((s.links.get p).goodMarks + 1 < 16 →
      exec (.mark p) s = .next (s.updLink p fun l => { l with goodMarks := l.goodMarks + 1 })) ∧
    (16 ≤ (s.links.get p).goodMarks + 1 →
      exec (.mark p) s = .next
        ((s.updLink p fun l =>
          { l with
            link := .exchange, goodMarks := 0, framingRun := 0, exchangeTimer := some (s.now + 1000000)
            window := some (s.now + 1000000), windowCount := 0 }).emit (.word p (.hello s.plane p))))) ∧
  ∀ (p : Port) (s : State), s.held = none → s.link p = .exchange ∨ s.link p = .up →
    let lost : LinkPort → LinkPort := fun l =>
      { l with
        link := .aligning, goodMarks := 0, framingRun := 0, exchangeTimer := none, window := none, windowCount := 0,
        stickyA := true, stickyB := true }
    ((s.links.get p).framingRun + 1 < 4 →
      exec (.framingFailure p) s = .next (s.updLink p fun l => { l with framingRun := l.framingRun + 1 })) ∧
    (4 ≤ (s.links.get p).framingRun + 1 → s.link p = .exchange →
      exec (.framingFailure p) s = .next ((s.updLink p lost).raise .alignLost)) ∧
    (4 ≤ (s.links.get p).framingRun + 1 → s.link p = .up →
      exec (.framingFailure p) s = .next ((s.leaveUp p lost).raise .alignLost))

/-- A check error raises the tally and the window count; at the fault threshold the port enters FAULTED, with
PORT_FAULTED and a PORT_FAULT offer, and with teardown and PORT_DOWN from UP (R144 to R146). On an UP port a REQUEST of
count 0, a CREDIT of count 0 or above 16 and a cell of payload length 0 or above 128 do what a failed word does (R2,
R96, R80). -/
def Obligations.CheckErrorsCountAndFaultThePort : Prop :=
  (∀ (p : Port) (s : State), s.held = none → s.link p = .exchange ∨ s.link p = .up → (s.links.get p).window ≠ none →
    let counted := (s.framed p).updLink p fun l =>
      { l with tallies := l.tallies.addCheckError, windowCount := l.windowCount + 1 }
    let faulted : LinkPort → LinkPort := fun l =>
      { l with link := .faulted, framingRun := 0, exchangeTimer := none, window := none, windowCount := 0 }
    ((s.links.get p).windowCount + 1 < (s.links.get p).threshold → exec (.failedWord p) s = .next counted) ∧
    ((s.links.get p).threshold ≤ (s.links.get p).windowCount + 1 → s.link p = .exchange →
      exec (.failedWord p) s = .next (((counted.updLink p faulted).raise .portFaulted).offer (.portFault p))) ∧
    ((s.links.get p).threshold ≤ (s.links.get p).windowCount + 1 → s.link p = .up →
      exec (.failedWord p) s = .next
        (((((counted.teardown p).updLink p faulted).raise .portDown).raise .portFaulted).offerGroups
          (counted.lapseOffers p ++ [[.portFault p]])))) ∧
  ∀ (p : Port) (s : State), s.held = none → s.link p = .up →
    (∀ d c, exec (.request p d c 0) s = exec (.failedWord p) s) ∧
    (∀ n : Fin 32, n.val = 0 ∨ 16 < n.val → exec (.credit p n) s = exec (.failedWord p) s) ∧
    ∀ x : UpCell, x.length.val = 0 ∨ 128 < x.length.val → exec (.cell p x) s = exec (.failedWord p) s

/-- A HELLO below 8 is ignored. Otherwise, in EXCHANGE, buffer count and credit take the value carried, at most 64, and
the port enters UP; in UP it is a rejoin, teardown and entry into UP at one event (R94, R95, R141). -/
def Obligations.HelloBringsUpOrRejoins : Prop :=
  (∀ (p : Port) (n : Fin 128) (s : State), s.held = none → s.link p = .exchange →
    (n.val < 8 → exec (.hello p n) s = .next (s.framed p)) ∧
    (8 ≤ n.val → exec (.hello p n) s = .next
      (((s.updLink p fun l =>
        { l with
          link := .up, bufferCount := min 64 n.val, framingRun := 0, exchangeTimer := none, retry := 0
          window := some (s.now + 1000000), windowCount := 0 }).updArb p fun a => { a with credit := min 64 n.val }).raise
            .portUp))) ∧
  ∀ (p : Port) (n : Fin 128) (s : State), s.held = none → s.link p = .up →
    (n.val < 8 → exec (.hello p n) s = .next (s.framed p)) ∧
    (8 ≤ n.val → exec (.hello p n) s = .next
      (((((s.framed p).leaveUp p id).updLink p fun l =>
        { l with
          link := .up, bufferCount := min 64 n.val, framingRun := 0, exchangeTimer := none, retry := 0
          window := some (s.now + 1000000), windowCount := 0 }).updArb p fun a => { a with credit := min 64 n.val }).raise
            .portUp))

/-- An expiry of the exchange timer in EXCHANGE: below the eighth HELLO is sent again and the timer restarts; the eighth
faults the port (R140). An expiry of the check-error window restarts it with count 0 (R144). An expiry of a timer that
was stopped or restarted has no effect. -/
def Obligations.LinkTimersExpireAsTheirRulesSay : Prop :=
  (∀ (p : Port) (due : Time) (s : State), s.held = none →
    (s.link p = .exchange → (s.links.get p).exchangeTimer = some due → (s.links.get p).retry + 1 < 8 →
      exec (.exchangeTimerExpiry p due) s = .next
        ({ s.updLink p fun l =>
            { l with retry := l.retry + 1, exchangeTimer := some (max s.now due + 1000000) } with
          now := max s.now due }.emit (.word p (.hello s.plane p)))) ∧
    (s.link p = .exchange → (s.links.get p).exchangeTimer = some due → 8 ≤ (s.links.get p).retry + 1 →
      exec (.exchangeTimerExpiry p due) s = .next
        (({ s.updLink p fun l =>
            { l with
              link := .faulted, retry := l.retry + 1, framingRun := 0, exchangeTimer := none, window := none
              windowCount := 0 } with
          now := max s.now due }.raise .portFaulted).offer (.portFault p))) ∧
    (s.link p ≠ .exchange ∨ (s.links.get p).exchangeTimer ≠ some due →
      exec (.exchangeTimerExpiry p due) s = .next s)) ∧
  ∀ (p : Port) (due : Time) (s : State), s.held = none →
    ((s.links.get p).window = some due → exec (.checkErrorWindowExpiry p due) s = .next
      { s.updLink p fun l => { l with window := some (max s.now due + 1000000), windowCount := 0 } with
        now := max s.now due }) ∧
    ((s.links.get p).window ≠ some due → exec (.checkErrorWindowExpiry p due) s = .next s)

/-- Teardown of `j` in a state that keeps the laws: j's own blocks are idle with its settings kept; records naming j on
other lists leave with LAPSED in list order and their tally; every slot reserved by j is FREE and every filled slot
loses j; the in-flight and drain counts of all others are again what they count; everything shared is kept (R147 and
the rules it names). -/
def Obligations.TeardownClearsThePortAndReturnsWhatItHeld : Prop :=
  ∀ (s : State) (j : Port), s.LinksOk → s.InFlightOk → s.DrainOk → s.SlotsOk →
    let t := s.teardown j
    t.intakes = s.intakes.set j ⟨[], false, false⟩ ∧ t.matrix = s.matrix.set j Row.zero ∧
    t.mcastQueues = s.mcastQueues.set j [] ∧ t.grantLists.get j = ⟨[], 0⟩ ∧ t.transmit.get j = ⟨[], false, []⟩ ∧
    t.arbiters.get j =
      { s.arbiters.get j with credit := 0, inFlight := 0, u := 0, ptrs := Bank.fill 0, delivery := [] } ∧
    t.links.get j = { s.links.get j with bufferCount := 0 } ∧
    (∀ i, i ≠ j →
      (t.grantLists.get i).records = (s.records i).filter (fun r => !r.naming j) ∧
      (t.grantLists.get i).nextTag = (s.grantLists.get i).nextTag ∧
      (t.transmit.get i).queue = (s.transmit.get i).queue ∧ (t.transmit.get i).sending = (s.transmit.get i).sending ∧
      (s.link i = .up → (t.transmit.get i).words =
        (s.transmit.get i).words ++ ((s.records i).filter (·.naming j)).map fun r => .lapsed r.tag r.cls r.target.item) ∧
      t.links.get i =
        { s.links.get i with tallies := (s.links.get i).tallies.addLapsed ((s.records i).countP (·.naming j)) } ∧
      t.arbiters.get i =
        { s.arbiters.get i with
          credit :=
            if (s.records j).countP (·.naming i) = 0 then (s.arbiters.get i).credit
            else min (s.links.get i).bufferCount ((s.arbiters.get i).credit + (s.records j).countP (·.naming i))
          inFlight := (s.arbiters.get i).inFlight - (s.records j).countP (·.naming i) }) ∧
    t.InFlightOk ∧ t.DrainOk ∧ (∀ d, (t.portMap.get d).map = (s.portMap.get d).map) ∧
    (∀ k, t.slots.get k =
      match s.slots.get k with
      | .free => .free
      | .reserved src g c => if src = j then .free else .reserved src g c
      | .filled src g c x refs =>
        if refs.filter (· ≠ j) = [] then .free else .filled src g c x (refs.filter (· ≠ j))) ∧
    t = { s with
      links := t.links, intakes := t.intakes, matrix := t.matrix, portMap := t.portMap, arbiters := t.arbiters
      grantLists := t.grantLists, transmit := t.transmit, mcastQueues := t.mcastQueues, slots := t.slots
      viewA := t.viewA, viewB := t.viewB } ∧
    (∀ l, t.view l =
      if ∃ i, i ≠ j ∧ ∃ r ∈ s.records i, r.naming j = true then (s.view l).raise .grantLapsed else s.view l) ∧
    ∀ f, s.leaveUp j f = (((t.updLink j f).raise .portDown).offerGroups
      ((List.finRange 32).map fun i =>
        if i = j then [] else ((s.records i).filter (·.naming j)).map fun r => .lapse i r.tag r.target.item r.cls))

/-! ### Requests and the Request Matrix (chapter 1) -/

/-- A request word on an UP port joins the intake queue, with HOLD sent at 12 or more, or is refused with OVERRUN when
the port is blocked or the queue holds 16 words (R2, R4, R5, R6, R14). -/
def Obligations.RequestWordsJoinOrAreRefusedOverrun : Prop :=
  ∀ (p : Port) (w : RequestWord) (c : Instr) (s : State), s.held = none → s.link p = .up →
    ((∃ d cl n, n ≠ 0 ∧ w = .request d cl n ∧ c = .request p d cl n) ∨
      ∃ g cl, w = .group g cl ∧ c = .groupRequest p g cl) →
    let q := s.intakes.get p
    ((q.blocked = true ∨ 16 ≤ q.queue.length) → exec c s = .next
      ((((((s.framed p).updIntake p fun q => { q with blocked := true }).updLink p fun l =>
        { l with tallies := l.tallies.addRefused }).raise .requestRefused).offer (.overrun p)).updTx p fun t =>
          { t with words := t.words ++ [.refuse .overrun w.item w.cls w.count] })) ∧
    (q.blocked = false → q.queue.length < 16 →
      (12 ≤ q.queue.length + 1 → (s.links.get p).holdEnable = true → q.hold = false → exec c s = .next
        (((s.framed p).updIntake p fun q => { q with queue := q.queue ++ [w], hold := true }).updTx p fun t =>
          { t with words := t.words ++ [.hold] })) ∧
      ((q.queue.length + 1 < 12 ∨ (s.links.get p).holdEnable = false ∨ q.hold = true) → exec c s = .next
        ((s.framed p).updIntake p fun q => { q with queue := q.queue ++ [w] })))

/-- RESYNC on an UP port: queue emptied, flags cleared, row 0, multicast request queue emptied, RESUME when a hold was in
force and then SYNCED; nothing else of the part changes (R8). -/
def Obligations.ResyncEmptiesTheRowAndAnswersSynced : Prop :=
  ∀ (p : Port) (s : State), s.held = none → s.link p = .up →
    exec (.resync p) s = .next
      { s.framed p with
        intakes := s.intakes.set p ⟨[], false, false⟩
        matrix := s.matrix.set p Row.zero
        mcastQueues := s.mcastQueues.set p []
        transmit := s.transmit.upd p fun t =>
          { t with words := t.words ++ (if (s.intakes.get p).hold then [.resume, .synced] else [.synced]) } }

/-- An absorption serves the first port, in cyclic order from the pointer, whose queue is not empty, takes its oldest
word, and moves the pointer behind it; with every queue empty there is none. A port with words waiting is served within
32 absorptions, whatever the other ports hold (R11). -/
def Obligations.AbsorptionServesWaitingPortsInTurn : Prop :=
  (∀ s : State, s.held = none →
    ((∀ p, (s.intakes.get p).queue = []) → exec .absorption s = .next s) ∧
    ∀ (m : Port) (w : RequestWord) (rest : List RequestWord),
      (∀ k : Port, k < m → (s.intakes.get (s.absorbPtr + k)).queue = []) →
      (s.intakes.get (s.absorbPtr + m)).queue = w :: rest →
      ∃ t, exec .absorption s = .next t ∧ t.absorbPtr = s.absorbPtr + m + 1 ∧
        (t.intakes.get (s.absorbPtr + m)).queue = rest ∧
        ∀ p, p ≠ s.absorbPtr + m → t.intakes.get p = s.intakes.get p) ∧
  ∀ (s : State) (p : Port), s.held = none → (s.intakes.get p).queue ≠ [] →
    ∃ n, n < 32 ∧ ((s.afterAbsorptions n).intakes.get p) = s.intakes.get p ∧
      ((s.afterAbsorptions (n + 1)).intakes.get p).queue = (s.intakes.get p).queue.tail

/-- The absorption of a REQUEST: NO_ROUTE toward a VOID destination, CEILING above 63, else the count rises; a refusal is
accounted, and RESUME is sent when the occupancy comes down to 4 with a hold in force (R13, R14, R7). When both words
are sent their order is open (log 4). -/
def Obligations.AbsorbedRequestsRaiseTheCountOrAreRefused : Prop :=
  ∀ (s : State) (i : Port) (d : Dest) (c : Cls) (n : Fin 16) (rest : List RequestWord), s.held = none →
    s.nextServed = some i → (s.intakes.get i).queue = .request d c n :: rest → s.link i = .up →
    let before := s.count i d c
    let isVoid := (s.mapEntry d).map = .void
    let refusal : List DownWord :=
      if isVoid then [.refuse .noRoute (.request d) c n.val]
      else if 63 < before + n.val then [.refuse .ceiling (.request d) c (before + n.val - 63)] else []
    let resume : List DownWord := if (s.intakes.get i).hold = true ∧ rest.length = 4 then [.resume] else []
    ∃ t ws, exec .absorption s = .next t ∧ ws.Perm (refusal ++ resume) ∧
      (∀ i' d' c', t.count i' d' c' =
        if i' = i ∧ d' = d ∧ c' = c then (if isVoid then before else min 63 (before + n.val)) else s.count i' d' c') ∧
      t = { (if refusal = [] then s
            else (s.updLink i fun l => { l with tallies := l.tallies.addRefused }).raise .requestRefused) with
        intakes := s.intakes.upd i fun q => { q with queue := rest, hold := q.hold && decide (resume = []) }
        absorbPtr := i + 1
        matrix := t.matrix
        transmit := s.transmit.upd i fun x => { x with words := x.words ++ ws }
        freeCount := t.freeCount }

/-- The absorption of a GROUP REQUEST: NO_GROUP for an invalid group, MCAST_FULL at 16 records, else the record joins
the port's multicast request queue; refusals and RESUME as for a REQUEST (R115, R14, R7). -/
def Obligations.AbsorbedGroupRequestsJoinOrAreRefused : Prop :=
  ∀ (s : State) (i : Port) (g : Group) (c : Cls) (rest : List RequestWord), s.held = none →
    s.nextServed = some i → (s.intakes.get i).queue = .group g c :: rest → s.link i = .up →
    let refusal : List DownWord :=
      if (s.groupEntry g).valid = false then [.refuse .noGroup (.group g) c 1]
      else if 16 ≤ (s.mcastQueues.get i).length then [.refuse .mcastFull (.group g) c 1] else []
    let resume : List DownWord := if (s.intakes.get i).hold = true ∧ rest.length = 4 then [.resume] else []
    ∃ t ws, exec .absorption s = .next t ∧ ws.Perm (refusal ++ resume) ∧
      t = { (if refusal = [] then s
            else (s.updLink i fun l => { l with tallies := l.tallies.addRefused }).raise .requestRefused) with
        intakes := s.intakes.upd i fun q => { q with queue := rest, hold := q.hold && decide (resume = []) }
        absorbPtr := i + 1
        mcastQueues := if refusal = [] then s.mcastQueues.upd i fun q => q ++ [⟨g, c⟩] else s.mcastQueues
        transmit := s.transmit.upd i fun x => { x with words := x.words ++ ws }
        freeCount := t.freeCount }

/-! ### Arbitration, credit and the allocator (chapters 3, 5 and 6) -/

/-- CREDIT on an UP port raises the credit, stopping at the buffer count, where CREDIT_EXCESS is raised and a fault
offered (R96). -/
def Obligations.CreditRisesToTheBufferCount : Prop :=
  ∀ (p : Port) (n : Fin 32) (s : State), s.held = none → s.link p = .up → 1 ≤ n.val → n.val ≤ 16 →
    let bound := (s.links.get p).bufferCount
    ((s.arbiters.get p).credit + n.val ≤ bound → exec (.credit p n) s = .next
      ((s.framed p).updArb p fun a => { a with credit := a.credit + n.val })) ∧
    (bound < (s.arbiters.get p).credit + n.val → exec (.credit p n) s = .next
      ((((s.framed p).updArb p fun a => { a with credit := bound }).raise .creditExcess).offer (.creditExcess p)))

/-- Eligibility and unicast candidates are what R47 and R48 say, and the arbiter chooses between a delivery and a grant
by R50's table. -/
def Obligations.ArbiterDecidesByEligibilityCandidatesAndTurn : Prop :=
  ∀ (s : State) (j : Port),
    (s.eligible j = true ↔ s.link j = .up ∧ 1 ≤ (s.arbiters.get j).credit ∧ (s.arbiters.get j).inFlight < 8) ∧
    (∀ i d c, s.isCandidate j i d c = true ↔
      1 ≤ s.count i d c ∧ (s.mapEntry d).map = .active j ∧ s.link i = .up ∧ (s.records i).length < 4 ∧
      ((s.arbiters.get j).policy = .sole → (s.arbiters.get j).sole = i)) ∧
    (s.eligible j = false → s.decision j = .none) ∧
    (s.eligible j = true →
      (∀ k, s.decision j = .deliver k ↔ (s.arbiters.get j).delivery.head? = some k ∧
        (s.policyChoice j = none ∨ (s.arbiters.get j).turn ≤ (s.arbiters.get j).u)) ∧
      ∀ x, s.decision j = .grant x ↔ s.policyChoice j = some x ∧
        ((s.arbiters.get j).delivery = [] ∨ (s.arbiters.get j).u < (s.arbiters.get j).turn))

/-- Every policy takes, among all unicast candidates, the one its rule names, and none only when there is none (R52 to
R55). -/
def Obligations.PolicyTakesTheCandidateItsRuleNames : Prop :=
  ∀ (s : State) (j : Port),
    (s.policyChoice j = none ↔ ∀ i d c, s.isCandidate j i d c = false) ∧
    ∀ x, s.policyChoice j = some x ↔
      s.isCandidate j x.ingress x.dest x.cls = true ∧
      ∀ i d c, s.isCandidate j i d c = true →
        (s.arbiters.get j).place x ≤ (s.arbiters.get j).place ⟨i, d, c⟩

/-- A unicast grant of an eligible arbiter has the effects of R58, all at one event, and no other; its claims are taken
because a candidate meets them (R57). The form in which an older record carries the next tag is in
TagReuseLapsesTheOlderRecordFirst. That choice and claims are one event is the model's reading (log 10). -/
def Obligations.UnicastGrantHasItsEffects : Prop :=
  ∀ (s : State) (j : Port) (x : Candidate), s.held = none → s.link j = .up → 1 ≤ (s.arbiters.get j).credit →
    (s.arbiters.get j).inFlight < 8 → s.policyChoice j = some x →
    ((s.arbiters.get j).delivery = [] ∨ (s.arbiters.get j).u < (s.arbiters.get j).turn) →
    (∀ r ∈ s.records x.ingress, r.tag ≠ (s.grantLists.get x.ingress).nextTag) →
    exec (.unicastGrantDecision j none) s = .next
      { s with
        matrix := (s.setCount x.ingress x.dest x.cls (s.count x.ingress x.dest x.cls - 1)).matrix
        portMap := s.portMap.upd x.dest fun e => { e with drain := e.drain + 1 }
        grantLists := s.grantLists.upd x.ingress fun g =>
          { records := g.records ++ [⟨g.nextTag, x.cls, .unicast x.dest j, s.grantWindow.time.map (s.now + ·)⟩]
            nextTag := g.nextTag + 1 }
        transmit := s.transmit.upd x.ingress fun t =>
          { t with
            words := t.words ++ [.grant (s.grantLists.get x.ingress).nextTag x.cls (.unicast x.dest)] }
        arbiters := s.arbiters.upd j fun a =>
          { a with
            credit := a.credit - 1
            inFlight := a.inFlight + 1
            u := min 15 (a.u + 1)
            ptrs :=
              match a.policy with
              | .round => a.ptrs.set 0 (x.ingress + 1)
              | .classRound => a.ptrs.set x.cls (x.ingress + 1)
              | .strict | .sole => a.ptrs } }

/-- A decision whose chosen candidate meets a refused claim, of count, entry or place, has no effect, and the arbiter
decides afresh: the grant, the delivery or nothing of R50 (R57, R59; the `chosen` operand is the model's, log 10). -/
def Obligations.RefusedClaimsLeaveTheArbiterToDecideAfresh : Prop :=
  ∀ (s : State) (j : Port) (x : Candidate), s.held = none →
    (s.count x.ingress x.dest x.cls = 0 ∨ (s.mapEntry x.dest).map ≠ .active j ∨ s.link x.ingress ≠ .up ∨
      4 ≤ (s.records x.ingress).length) →
    exec (.unicastGrantDecision j (some x)) s =
      match s.decision j with
      | .none => .next s
      | .deliver _ => exec (.deliveryDecision j) s
      | .grant _ => exec (.unicastGrantDecision j none) s

/-- A record placed with a tag that an older record carries lapses the older one first, and this is all that happens: it
leaves the list, what it held is returned (its credit, place in flight and drain count, or its slot), it is accounted,
LAPSED goes ahead of the GRANT, and the new record joins the tail (R73, R76 to R79). A unicast grant and a grant of the
allocator place their record so, whether an older record carries its tag or not; that a choice and
its claims are one event (log 10), and that the unicast grant's own credit and place are spent after the give-back
(log 21), are the model's readings. -/
def Obligations.TagReuseLapsesTheOlderRecordFirst : Prop :=
  (∀ (s : State) (i : Port) (target : GrantTarget) (c : Cls) (earlier later : List GrantRecord) (old : GrantRecord),
    s.link i = .up → s.records i = earlier ++ old :: later → old.tag = (s.grantLists.get i).nextTag →
    (∀ r ∈ earlier, r.tag ≠ old.tag) →
    let placed (t : State) : State :=
      ((({ t with
        grantLists := s.grantLists.set i
          { records := earlier ++ later ++ [GrantRecord.mk old.tag c target (s.grantWindow.time.map (s.now + ·))]
            nextTag := old.tag + 1 }
        transmit := s.transmit.upd i fun y =>
          { y with words := y.words ++ [DownWord.lapsed old.tag old.cls old.target.item, .grant old.tag c target.item] } }.updLink i
            fun l => { l with tallies := l.tallies.addLapsed 1 }).raise .grantLapsed).offer
              (.lapse i old.tag old.target.item old.cls))
    (∀ d j, old.target = .unicast d j → s.placeRecord i target c =
      placed ((s.updArb j fun a =>
        { a with
          credit := min (s.links.get j).bufferCount (a.credit + 1), inFlight := a.inFlight - 1 }).updEntry d fun e =>
            { e with drain := e.drain - 1 })) ∧
    ∀ g k src g' c', old.target = .multicast g k → s.slots.get k = .reserved src g' c' →
      s.placeRecord i target c = placed (s.updSlot k fun _ => .free)) ∧
  (∀ (s : State) (j : Port) (x : Candidate), s.held = none → s.link j = .up → 1 ≤ (s.arbiters.get j).credit →
    (s.arbiters.get j).inFlight < 8 → s.policyChoice j = some x →
    ((s.arbiters.get j).delivery = [] ∨ (s.arbiters.get j).u < (s.arbiters.get j).turn) →
    exec (.unicastGrantDecision j none) s = .next
      (((({ s with
        matrix := (s.setCount x.ingress x.dest x.cls (s.count x.ingress x.dest x.cls - 1)).matrix
        portMap := s.portMap.upd x.dest fun e => { e with drain := e.drain + 1 } }).placeRecord x.ingress
          (.unicast x.dest j) x.cls).updArb j fun a =>
            { a with
              credit := a.credit - 1
              inFlight := a.inFlight + 1
              u := min 15 (a.u + 1)
              ptrs :=
                match a.policy with
                | .round => a.ptrs.set 0 (x.ingress + 1)
                | .classRound => a.ptrs.set x.cls (x.ingress + 1)
                | .strict | .sole => a.ptrs }))) ∧
  ∀ s : State, s.held = none →
    let candidate : Port → Prop := fun i =>
      s.link i = .up ∧ s.mcastQueues.get i ≠ [] ∧ (s.records i).length < 4
    ∀ (m i : Port) (k : SlotNo) (q : McastRequest) (qs : List McastRequest), i = s.allocPtr + m → candidate i →
      (∀ m' : Port, m' < m → ¬ candidate (s.allocPtr + m')) → s.slots.get k = .free →
      (∀ k', k' < k → s.slots.get k' ≠ .free) → s.mcastQueues.get i = q :: qs →
      exec .allocatorDecision s = .next
        (({ s with
          mcastQueues := s.mcastQueues.set i qs
          slots := s.slots.set k (.reserved i q.group q.cls)
          allocPtr := i + 1 }).placeRecord i (.multicast q.group k) q.cls)

/-- A delivery moves the head slot to the transmit queue, spends a credit and a place in flight, and sets u to 0 (R61). -/
def Obligations.DeliveryMovesTheHeadSlot : Prop :=
  ∀ (s : State) (j : Port) (k : SlotNo) (ks : List SlotNo), s.held = none → s.link j = .up →
    1 ≤ (s.arbiters.get j).credit → (s.arbiters.get j).inFlight < 8 → (s.arbiters.get j).delivery = k :: ks →
    (s.policyChoice j = none ∨ (s.arbiters.get j).turn ≤ (s.arbiters.get j).u) →
    exec (.deliveryDecision j) s = .next
      { s with
        arbiters := s.arbiters.upd j fun a =>
          { a with credit := a.credit - 1, inFlight := a.inFlight + 1, u := 0, delivery := ks }
        transmit := s.transmit.upd j fun t => { t with queue := t.queue ++ [.copy k] } }

/-- The allocator grants the head record of the first candidate in cyclic order from its pointer into the lowest FREE
slot (R117 to R119); with no candidate or no FREE slot it does nothing. The form in which an older record carries the
next tag is in TagReuseLapsesTheOlderRecordFirst. -/
def Obligations.AllocatorGrantsTheNextCandidateTheLowestFreeSlot : Prop :=
  ∀ s : State, s.held = none →
    let candidate : Port → Prop := fun i =>
      s.link i = .up ∧ s.mcastQueues.get i ≠ [] ∧ (s.records i).length < 4
    ((∀ i, ¬ candidate i) ∨ (∀ k, s.slots.get k ≠ .free) → exec .allocatorDecision s = .next s) ∧
    ∀ (m i : Port) (k : SlotNo) (q : McastRequest) (qs : List McastRequest), i = s.allocPtr + m → candidate i →
      (∀ m' : Port, m' < m → ¬ candidate (s.allocPtr + m')) → s.slots.get k = .free →
      (∀ k', k' < k → s.slots.get k' ≠ .free) → s.mcastQueues.get i = q :: qs →
      (∀ r ∈ s.records i, r.tag ≠ (s.grantLists.get i).nextTag) →
      exec .allocatorDecision s = .next
        { s with
          mcastQueues := s.mcastQueues.set i qs
          slots := s.slots.set k (.reserved i q.group q.cls)
          allocPtr := i + 1
          grantLists := s.grantLists.upd i fun g =>
            { records := g.records ++ [⟨g.nextTag, q.cls, .multicast q.group k, s.grantWindow.time.map (s.now + ·)⟩]
              nextTag := g.nextTag + 1 }
          transmit := s.transmit.upd i fun t =>
            { t with words := t.words ++ [.grant (s.grantLists.get i).nextTag q.cls (.multicast q.group)] } }

/-! ### Arriving cells, lapses and transmission (chapters 4 to 6) -/

/-- A cell matched to a UNICAST record: every earlier record lapses in list order, the record leaves, the cell is counted
and joins the transmit queue of the recorded port with the content carried (R81, R82). -/
def Obligations.CellMatchedToAUnicastRecordJoinsItsPort : Prop :=
  ∀ (s : State) (i j : Port) (d : Dest) (x : UpCell) (earlier later : List GrantRecord) (r : GrantRecord),
    s.held = none → s.link i = .up → 1 ≤ x.length.val → x.length.val ≤ 128 → s.LinksOk →
    s.records i = earlier ++ r :: later → (∀ e ∈ earlier, e.tag ≠ x.tag) → r.tag = x.tag → r.target = .unicast d j →
    ∃ t, exec (.cell i x) s = .next t ∧
      t.grantLists = (s.grantLists.upd i fun g => { g with records := later }) ∧
      (∀ k, (t.transmit.get k).queue = (s.transmit.get k).queue ++
        if k = j then
          [.unicast i r.cls d ⟨x.first, x.last, x.length.val, x.flow, x.payload.take x.length.val⟩] else []) ∧
      (∀ k, (t.transmit.get k).words = (s.transmit.get k).words ++
        if k = i then earlier.map (fun e => DownWord.lapsed e.tag e.cls e.target.item) else []) ∧
      (∀ k, (t.transmit.get k).sending = (s.transmit.get k).sending) ∧
      t.links = (s.links.upd i fun l =>
        { l with framingRun := 0, tallies := (l.tallies.addLapsed earlier.length).addCellsIn }) ∧
      (∀ m, t.meters.get m = (s.meters.get m).countAt .ingress i) ∧
      (∀ k, t.arbiters.get k =
        { s.arbiters.get k with
          credit :=
            if earlier.countP (·.naming k) = 0 then (s.arbiters.get k).credit
            else min (s.links.get k).bufferCount ((s.arbiters.get k).credit + earlier.countP (·.naming k))
          inFlight := (s.arbiters.get k).inFlight - earlier.countP (·.naming k) }) ∧
      (∀ d', t.portMap.get d' =
        { s.portMap.get d' with drain := (s.portMap.get d').drain - earlier.countP (·.toward d') }) ∧
      (∀ k, t.slots.get k = if earlier.any (·.reserves k) then (s.slots.get k).unreserve else s.slots.get k) ∧
      let s' := (if earlier = [] then s else s.raise .grantLapsed).offerAll
        (earlier.map fun e => .lapse i e.tag e.target.item e.cls)
      t = { s with
        grantLists := t.grantLists, transmit := t.transmit, links := t.links, meters := t.meters
        arbiters := t.arbiters, portMap := t.portMap, slots := t.slots, viewA := s'.viewA, viewB := s'.viewB
        capture := s'.capture, moreFaults := s'.moreFaults }

/-- Fanout resolution: the UP ports that some member of the valid group maps to ACTIVE, without the source when prune
source is yes (R124). -/
def Obligations.FanoutIsTheUpPortsOfTheActiveMembers : Prop :=
  ∀ (s : State) (g : Group) (src p : Port),
    p ∈ s.fanout g src ↔
      s.link p = .up ∧ (s.groupEntry g).valid = true ∧
      (∃ d ∈ (s.groupEntry g).members, (s.mapEntry d).map = .active p) ∧
      ((s.groupEntry g).prune = true → p ≠ src)

/-- A cell matched to a MULTICAST record fills its slot and joins it to the delivery queues of its fanout; an empty fanout
frees the slot at once and counts (R123, R125, R126, R83). First with the record at the head of the list; then with
records before it, each of which lapses in list order (R81, step 1). -/
def Obligations.CellMatchedToAMulticastRecordFillsItsSlot : Prop :=
  (∀ (s : State) (i : Port) (g : Group) (k : SlotNo) (x : UpCell) (r : GrantRecord) (later : List GrantRecord),
    s.held = none → s.link i = .up → 1 ≤ x.length.val → x.length.val ≤ 128 → s.records i = r :: later →
    r.tag = x.tag → r.target = .multicast g k → s.slots.get k = .reserved i g r.cls →
    let matched := { ((s.framed i).updLink i fun l => { l with tallies := l.tallies.addCellsIn }) with
      grantLists := s.grantLists.upd i fun y => { y with records := later }
      meters := Bank.tab fun m => (s.meters.get m).countAt .ingress i }
    let content : CellContent := ⟨x.first, x.last, x.length.val, x.flow, x.payload.take x.length.val⟩
    (s.fanout g i = [] → exec (.cell i x) s = .next
      ((matched.updSlot k fun _ => .free).updLink i fun l => { l with tallies := l.tallies.addEmptyFanout })) ∧
    (s.fanout g i ≠ [] → exec (.cell i x) s = .next
      { matched with
        slots := s.slots.set k (.filled i g r.cls content (s.fanout g i))
        arbiters := Bank.tab fun j =>
          if j ∈ s.fanout g i then { s.arbiters.get j with delivery := (s.arbiters.get j).delivery ++ [k] }
          else s.arbiters.get j })) ∧
  ∀ (s : State) (i : Port) (g : Group) (k : SlotNo) (x : UpCell) (earlier later : List GrantRecord) (r : GrantRecord),
    s.held = none → s.link i = .up → 1 ≤ x.length.val → x.length.val ≤ 128 → earlier ≠ [] →
    s.records i = earlier ++ r :: later → (∀ e ∈ earlier, e.tag ≠ x.tag) → r.tag = x.tag → r.target = .multicast g k →
    s.slots.get k = .reserved i g r.cls →
    let content : CellContent := ⟨x.first, x.last, x.length.val, x.flow, x.payload.take x.length.val⟩
    ∃ t, exec (.cell i x) s = .next t ∧
      t.grantLists = (s.grantLists.upd i fun y => { y with records := later }) ∧
      t.transmit = (s.transmit.upd i fun y =>
        { y with words := y.words ++ earlier.map fun e => DownWord.lapsed e.tag e.cls e.target.item }) ∧
      t.links = (s.links.upd i fun l =>
        { l with
          framingRun := 0
          tallies :=
            if s.fanout g i = [] then ((l.tallies.addLapsed earlier.length).addCellsIn).addEmptyFanout
            else (l.tallies.addLapsed earlier.length).addCellsIn }) ∧
      (∀ m, t.meters.get m = (s.meters.get m).countAt .ingress i) ∧
      (∀ j, t.arbiters.get j =
        { s.arbiters.get j with
          credit :=
            if earlier.countP (·.naming j) = 0 then (s.arbiters.get j).credit
            else min (s.links.get j).bufferCount ((s.arbiters.get j).credit + earlier.countP (·.naming j))
          inFlight := (s.arbiters.get j).inFlight - earlier.countP (·.naming j)
          delivery := (s.arbiters.get j).delivery ++ if j ∈ s.fanout g i then [k] else [] }) ∧
      (∀ d, t.portMap.get d =
        { s.portMap.get d with drain := (s.portMap.get d).drain - earlier.countP (·.toward d) }) ∧
      (∀ k', t.slots.get k' =
        if k' = k then (if s.fanout g i = [] then .free else .filled i g r.cls content (s.fanout g i))
        else if earlier.any (·.reserves k') then (s.slots.get k').unreserve else s.slots.get k') ∧
      let s' := (s.raise .grantLapsed).offerAll (earlier.map fun e => .lapse i e.tag e.target.item e.cls)
      t = { s with
        grantLists := t.grantLists, transmit := t.transmit, links := t.links, meters := t.meters
        arbiters := t.arbiters, portMap := t.portMap, slots := t.slots, viewA := s'.viewA, viewB := s'.viewB
        capture := s'.capture, moreFaults := s'.moreFaults }

/-- A cell whose tag matches no record is LATE: discarded, counted, LATE_CELL raised and a LATE fault offered; nothing
else changes and no word is sent (R84). -/
def Obligations.LateCellsAreDiscardedAndCounted : Prop :=
  ∀ (s : State) (i : Port) (x : UpCell), s.held = none → s.link i = .up → 1 ≤ x.length.val → x.length.val ≤ 128 →
    (∀ r ∈ s.records i, r.tag ≠ x.tag) →
    exec (.cell i x) s = .next
      ((((s.framed i).updLink i fun l => { l with tallies := l.tallies.addLate }).raise .lateCell).offer (.late i x.tag))

/-- The expiry of a record on the list lapses it: LAPSED, its credit, place in flight and drain or its slot returned, its
accounting (R76 to R79); an expiry whose record has left, or that is another record's, has no effect. -/
def Obligations.GrantExpiryLapsesTheRecord : Prop :=
  ∀ (s : State) (i : Port) (tag : Tag) (due : Time), s.held = none →
    ((∀ r ∈ s.records i, r.tag = tag → r.expiry ≠ some due) → exec (.grantExpiry i tag due) s = .next s) ∧
    ∀ (earlier later : List GrantRecord) (r : GrantRecord), s.link i = .up →
      s.records i = earlier ++ r :: later → (∀ e ∈ earlier, e.tag ≠ tag) → r.tag = tag → r.expiry = some due →
      let accounted (t : State) : State :=
        ((({ t with
          now := max s.now due
          grantLists := s.grantLists.upd i fun g => { g with records := earlier ++ later }
          transmit := s.transmit.upd i fun y =>
            { y with words := y.words ++ [DownWord.lapsed tag r.cls r.target.item] } }.updLink i fun l =>
          { l with tallies := l.tallies.addLapsed 1 }).raise .grantLapsed).offer (.lapse i tag r.target.item r.cls))
      (∀ d j, r.target = .unicast d j → exec (.grantExpiry i tag due) s = .next
        (accounted ((s.updArb j fun a =>
          { a with
            credit := min (s.links.get j).bufferCount (a.credit + 1), inFlight := a.inFlight - 1 }).updEntry d fun e =>
              { e with drain := e.drain - 1 }))) ∧
      ∀ g k src g' c', r.target = .multicast g k → s.slots.get k = .reserved src g' c' →
        exec (.grantExpiry i tag due) s = .next (accounted (s.updSlot k fun _ => .free))

/-- A free transmitter of an UP port sends its oldest waiting control word; with none waiting it begins the head entry,
whose header is that of R101; with neither waiting it sends MARK, as it does in ALIGNING and EXCHANGE, and in OFF, DARK
and FAULTED it sends nothing (R10, R100, R101, R143). While it sends a cell, none of these happens. That a fill MARK is a
CONTROL_WORD_TRANSMISSION with no word waiting is the model's choice (log 8). -/
def Obligations.TransmitterSendsWordsBeforeCells : Prop :=
  ∀ (s : State) (j : Port), s.held = none →
    (s.link j = .up →
      ((s.transmit.get j).sending = false →
        (∀ w ws, (s.transmit.get j).words = w :: ws → exec (.controlWordTransmission j) s = .next
          ((s.updTx j fun t => { t with words := ws }).emit (.word j w))) ∧
        ((s.transmit.get j).words = [] →
          (∀ src c d x es, (s.transmit.get j).queue = .unicast src c d x :: es → exec (.transmissionStart j) s = .next
            ((s.updTx j fun t => { t with sending := true }).emit (.cellStart j ⟨src, c, .unicast d, x⟩))) ∧
          (∀ k src g c x refs es, (s.transmit.get j).queue = .copy k :: es →
            s.slots.get k = .filled src g c x refs → exec (.transmissionStart j) s = .next
              ((s.updTx j fun t => { t with sending := true }).emit (.cellStart j ⟨src, c, .multicast g, x⟩))) ∧
          ((s.transmit.get j).queue = [] →
            exec (.controlWordTransmission j) s = .next (s.emit (.word j .mark))))) ∧
      ((s.transmit.get j).words = [] → (s.transmit.get j).queue ≠ [] →
        exec (.controlWordTransmission j) s = .next s) ∧
      ((s.transmit.get j).words ≠ [] ∨ (s.transmit.get j).queue = [] → exec (.transmissionStart j) s = .next s) ∧
      ((s.transmit.get j).sending = true →
        exec (.controlWordTransmission j) s = .next s ∧ exec (.transmissionStart j) s = .next s)) ∧
    (s.link j = .aligning ∨ s.link j = .exchange → (s.transmit.get j).words = [] →
      exec (.controlWordTransmission j) s = .next (s.emit (.word j .mark))) ∧
    (s.link j = .off ∨ s.link j = .dark ∨ s.link j = .faulted →
      exec (.controlWordTransmission j) s = .next s) ∧
    (s.link j ≠ .up → exec (.transmissionStart j) s = .next s)

/-- A transmit completion: the head entry leaves, in-flight falls, the drain count falls or the slot loses the port (and
is FREE when it was the last), cells out and the meters count, credit stays (R102, R127). -/
def Obligations.TransmitCompletionReleasesTheHeadEntry : Prop :=
  ∀ (s : State) (j : Port) (es : List TxEntry), s.held = none → (s.transmit.get j).sending = true →
    let done := { ((s.updTx j fun t => { t with queue := es, sending := false }).updArb j fun a =>
        { a with inFlight := a.inFlight - 1 }).updLink j fun l => { l with tallies := l.tallies.addCellsOut } with
      meters := Bank.tab fun m => (s.meters.get m).countAt .egress j
      out := s.out ++ [Output.cellEnd j] }
    (∀ src c d x, (s.transmit.get j).queue = .unicast src c d x :: es → exec (.transmitCompletion j) s = .next
      (done.updEntry d fun e => { e with drain := e.drain - 1 })) ∧
    ∀ k src g c x refs, (s.transmit.get j).queue = .copy k :: es → s.slots.get k = .filled src g c x refs →
      exec (.transmitCompletion j) s = .next
        (done.updSlot k fun _ =>
          if refs.filter (· ≠ j) = [] then .free else .filled src g c x (refs.filter (· ≠ j)))

/-! ### Management messages, refusals and arguments (chapter 8) -/

/-- Every command message is answered once, on its own link, with its own code, after whatever else its event sends; an
answer other than DONE leaves everything else as it was (R152, R154). -/
def Obligations.EveryCommandIsAnsweredOnceAndRefusalsChangeNothing : Prop :=
  ∀ (c : Instr) (l : MgmtLink) (code : Byte) (args : List Byte) (s : State), s.held = none →
    Formats.argsOf c = some (l, code, args) →
    ∃ t words r, exec c s = .next t ∧ t.out = s.out ++ words ++ [.response l r] ∧ r.code = code ∧
      (∀ o ∈ words, ∃ p w, o = .word p w) ∧ (r.status ≠ .done → t = s.emit (.response l r))

/-- A message whose check fails is discarded without an answer and counted, up to 65535; one that names no command is
answered BAD_ARGUMENT with its code and no data (R153). IDENTIFY returns the identity and the summary of R164 to the
sending link, with its own discarded-message count, and changes nothing else. -/
def Obligations.MessagesAreCountedIdentifiedAndAnswered : Prop :=
  (∀ s : State, s.held = none →
    exec (.messageCheckFailure .a) s = .next { s with discardedA := min 65535 (s.discardedA + 1) } ∧
    exec (.messageCheckFailure .b) s = .next { s with discardedB := min 65535 (s.discardedB + 1) } ∧
    ∀ l code, exec (.unknownCommand l code) s = .next (s.respond l code .badArgument .none)) ∧
  ∀ (s : State) (l : MgmtLink), s.held = none →
    exec (.identify l) s = .next (s.respond l 1 .done (.identity
      { vendor := 1937, part := 3201, revision := 1, plane := s.plane, cause := s.startCause
        tablesReady := s.tablesReady, holder := s.holder, timeout := s.claimTimeout, window := s.grantWindow
        discarded := match l with
          | .a => s.discardedA
          | .b => s.discardedB }))

/-- Refusals in the order of R155: without steering every mutating command is answered NOT_STEERING, whatever its
arguments; then the table commands are NOT_READY while table initialisation runs; then come bad arguments. -/
def Obligations.RefusalsAreTestedInTheirOrder : Prop :=
  ∀ (s : State) (l : MgmtLink), s.held = none →
    (∀ c code, mutates c = some (l, code) → s.holder ≠ some l →
      exec c s = .next (s.respond l code .notSteering .none)) ∧
    (s.tablesReady = false →
      exec (.readMap l) s = .next (s.respond l 13 .notReady .none) ∧
      (∀ g, exec (.readGroup l g) s = .next (s.respond l 15 .notReady .none)) ∧
      (s.holder = some l →
        (∀ d st p, exec (.stageMap l d st p) s = .next (s.respond l 9 .notReady .none)) ∧
        exec (.commitMap l) s = .next (s.respond l 11 .notReady .none) ∧
        ∀ g v pr ms, exec (.writeGroup l g v pr ms) s = .next (s.respond l 14 .notReady .none))) ∧
    (∀ p : Byte, 32 ≤ p.toNat →
      exec (.readPort l p) s = .next (s.respond l 7 .badArgument .none) ∧
      exec (.readRequests l p) s = .next (s.respond l 16 .badArgument .none) ∧
      exec (.readTallies l p) s = .next (s.respond l 22 .badArgument .none) ∧
      (s.holder = some l → p.toNat ≠ 255 → exec (.clearTallies l p) s = .next (s.respond l 23 .badArgument .none)) ∧
      (s.holder = some l →
        (∀ e h pol src k th, exec (.setPort l p e h pol src k th) s = .next (s.respond l 6 .badArgument .none)) ∧
        ∀ m d g, exec (.startMeter l m p d g) s = .next (s.respond l 24 .badArgument .none))) ∧
    (∀ m : Byte, 4 ≤ m.toNat →
      exec (.readMeter l m) s = .next (s.respond l 26 .badArgument .none) ∧
      (s.holder = some l → exec (.stopMeter l m) s = .next (s.respond l 25 .badArgument .none) ∧
        ∀ p d g, exec (.startMeter l m p d g) s = .next (s.respond l 24 .badArgument .none))) ∧
    (∀ ks : BitVec 16, 8192 ≤ ks.toNat →
      exec (.clearEvents l ks) s = .next (s.respond l 18 .badArgument .none) ∧
      exec (.setMask l ks) s = .next (s.respond l 19 .badArgument .none)) ∧
    (s.tablesReady = true → ∀ g : BitVec 16, 1024 ≤ g.toNat →
      exec (.readGroup l g) s = .next (s.respond l 15 .badArgument .none) ∧
      (s.holder = some l → ∀ v pr ms,
        exec (.writeGroup l g v pr ms) s = .next (s.respond l 14 .badArgument .none)))

/-- Argument bytes: an enumerated byte is the index in the list the manual gives, a yes or no byte 0 or 1 (log 12), a
number below its bound; anything else is out of range (R187, R29, R64, R110, R148). -/
def Obligations.ArgumentBytesAreReadAsListed : Prop :=
  (∀ b : Byte,
    flagArg b = [false, true][b.toNat]? ∧
    policyArg b = ([.round, .strict, .classRound, .sole] : List Policy)[b.toNat]? ∧
    windowArg b = ([.us2, .us4, .us8, .us16, .off] : List GrantWindow)[b.toNat]? ∧
    timeoutArg b = ([.ms10, .ms50, .ms200, .ms1000] : List ClaimTimeout)[b.toNat]? ∧
    directionArg b = ([.ingress, .egress] : List Direction)[b.toNat]? ∧
    gateArg b = ([.ms1, .ms4, .ms8, .opened] : List Gate)[b.toNat]?) ∧
  (∀ (n v : Nat) (k : Fin n), numArg n v = some k ↔ v = k.val) ∧
  (∀ (st p : Byte) (m : Mapping), mappingArg st p = some m ↔
    (st.toNat = 0 ∧ m = .void) ∨ (∃ q : Port, q.val = p.toNat ∧ ((st.toNat = 1 ∧ m = .parked q) ∨
      (st.toNat = 2 ∧ m = .active q)))) ∧
  (∀ (ms : List Byte) (ds : List Dest), membersArg ms = some ds →
    ms.length ≤ 64 ∧ (∀ b ∈ ms, b.toNat < 64) ∧ ds.Pairwise (· < ·) ∧
    ∀ d : Dest, d ∈ ds ↔ ∃ b ∈ ms, b.toNat = d.val) ∧
  (∀ ms : List Byte, membersArg ms = none ↔ 64 < ms.length ∨ ∃ b ∈ ms, 64 ≤ b.toNat) ∧
  ∀ (e h pol src k th : Byte) (x : PortSettings), settingsArg e h pol src k th = some x ↔
    flagArg e = some x.enable ∧ flagArg h = some x.holdEnable ∧ policyArg pol = some x.policy ∧
    x.sole.val = src.toNat ∧ x.turn = k.toNat ∧ k.toNat < 16 ∧ x.threshold = th.toNat ∧ th.toNat ≠ 0

/-! ### Steering and settings -/

/-- CLAIM, REFRESH and RELEASE do what their tables say, and the expiry of the claim timer drops steering and the staging
list with CLAIM_LAPSED; an expiry of a timer that was restarted or stopped has no effect (R158 to R161); that the expiry carries `due`, and that
the clock then reads at least that, is the model's choice (log 2). SET TIMING from
the holder replaces both settings, or neither when a field holds none of its values (R163, R74, R75). -/
def Obligations.SteeringAndTimingSettings : Prop :=
  (∀ (s : State) (l : MgmtLink), s.held = none →
    (s.holder = none ∨ s.holder = some l → exec (.claim l) s = .next
      ({ s with holder := some l, claimTimer := some (s.now + s.claimTimeout.time) }.respond l 2 .done
        (.claimed (some l) s.claimTimeout))) ∧
    (∀ l', s.holder = some l' → l' ≠ l → exec (.claim l) s = .next (s.respond l 2 .held (.holder (some l')))) ∧
    (s.holder = some l → exec (.refresh l) s = .next
      ({ s with claimTimer := some (s.now + s.claimTimeout.time) }.respond l 3 .done (.refreshed s.claimTimeout))) ∧
    (s.holder ≠ some l → exec (.refresh l) s = .next (s.respond l 3 .notSteering (.holder s.holder))) ∧
    (s.holder = some l → exec (.release l) s = .next
      ({ s with holder := none, claimTimer := none, staging := [] }.respond l 4 .done (.number s.staging.length))) ∧
    (s.holder ≠ some l → exec (.release l) s = .next (s.respond l 4 .notSteering .none)) ∧
    ∀ due,
      (s.claimTimer = some due → exec (.claimTimerExpiry due) s = .next
        ({ s with now := max s.now due, holder := none, claimTimer := none, staging := [] }.raise .claimLapsed)) ∧
      (s.claimTimer ≠ some due → exec (.claimTimerExpiry due) s = .next s)) ∧
  ∀ (s : State) (l : MgmtLink) (w t : Byte), s.held = none → s.holder = some l →
    (∀ w' t', windowArg w = some w' → timeoutArg t = some t' → exec (.setTiming l w t) s = .next
      ({ s with grantWindow := w', claimTimeout := t' }.respond l 5 .done .none)) ∧
    (windowArg w = none ∨ timeoutArg t = none → exec (.setTiming l w t) s = .next (s.respond l 5 .badArgument .none))

/-- SET PORT from the holder replaces all six settings, sends RESUME when hold is turned off under a hold in force on a
port that stays UP, and moves the link state by the enable field (R148, R166, R136, R64); a field out of range refuses
the whole command. That a yes or no byte above 1 is out of range is the model's reading (log 12). -/
def Obligations.SetPortReplacesSettingsAndMovesThePort : Prop :=
  ∀ (s : State) (l : MgmtLink) (port e h pol src k th : Byte), s.held = none → s.holder = some l →
    (settingsArg e h pol src k th = none →
      exec (.setPort l port e h pol src k th) s = .next (s.respond l 6 .badArgument .none)) ∧
    ∀ (p : Port) (x : PortSettings), p.val = port.toNat → settingsArg e h pol src k th = some x →
      let s1 := (s.updLink p fun y =>
        { y with enable := x.enable, holdEnable := x.holdEnable, threshold := x.threshold }).updArb p fun a =>
          { a with policy := x.policy, sole := x.sole, turn := x.turn }
      let s2 :=
        if s.link p = .up ∧ (s.links.get p).holdEnable = true ∧ x.holdEnable = false ∧ (s.intakes.get p).hold = true ∧
            x.enable = true then
          (s1.updIntake p fun q => { q with hold := false }).updTx p fun y => { y with words := y.words ++ [.resume] }
        else s1
      let off : LinkPort → LinkPort := fun y =>
        { y with
          link := .off, goodMarks := 0, framingRun := 0, exchangeTimer := none, retry := 0, window := none
          windowCount := 0 }
      let s3 :=
        match s.link p, x.enable with
        | .off, true =>
          s2.updLink p fun y =>
            if y.presence = true then { y with link := .aligning, goodMarks := 0 } else { y with link := .dark }
        | .up, false => s2.leaveUp p off
        | .dark, false | .aligning, false | .exchange, false | .faulted, false => s2.updLink p off
        | _, _ => s2
      exec (.setPort l port e h pol src k th) s = .next (s3.respond l 6 .done (.linkState (s3.link p)))

/-- FABRIC RESTART from the holder clears the scheduling state of every block, takes UP and EXCHANGE ports to EXCHANGE
with HELLO, raises PORT_DOWN if a port was UP, and keeps everything else (R167, R149 and the rules they name). That each
HELLO is recorded as sent at the event (log 8), and in ascending order of port (log 25), is the model's choice. -/
def Obligations.FabricRestartClearsSchedulingState : Prop :=
  ∀ (s : State) (l : MgmtLink), s.held = none → s.holder = some l →
    let restarts := (List.finRange 32).filter fun p => decide (s.link p = .up ∨ s.link p = .exchange)
    let cleared : State := { s with
      intakes := Bank.fill ⟨[], false, false⟩
      matrix := Bank.fill Row.zero
      absorbPtr := 0
      portMap := Bank.tab fun d => { s.portMap.get d with drain := 0 }
      arbiters := Bank.tab fun j =>
        { s.arbiters.get j with credit := 0, inFlight := 0, u := 0, ptrs := Bank.fill 0, delivery := [] }
      grantLists := Bank.fill ⟨[], 0⟩
      transmit := Bank.fill ⟨[], false, []⟩
      mcastQueues := Bank.fill []
      allocPtr := 0
      slots := Bank.fill .free
      links := Bank.tab fun p =>
        if s.link p = .up ∨ s.link p = .exchange then
          { s.links.get p with
            link := .exchange, goodMarks := 0, framingRun := 0, exchangeTimer := some (s.now + 1000000), retry := 0
            window := some (s.now + 1000000), windowCount := 0, bufferCount := 0 }
        else { s.links.get p with bufferCount := 0 } }
    exec (.fabricRestart l) s = .next
      { (if ∃ p, s.link p = .up then cleared.raise .portDown else cleared) with
        out := s.out ++ (restarts.map fun p => .word p (.hello s.plane p)) ++
          [.response l ⟨8, .done, .number restarts.length⟩] }

/-! ### The Port Map and the Group Table (chapters 2 and 6) -/

/-- STAGE MAP replaces the entry of its destination in place, or appends it while the list holds fewer than 16, or is
FULL; DISCARD STAGING empties the list (R29 to R31). -/
def Obligations.StagingHoldsOneEntryForADestination : Prop :=
  ∀ (s : State) (l : MgmtLink), s.held = none → s.holder = some l →
    exec (.discardStaging l) s = .next ({ s with staging := [] }.respond l 10 .done (.number s.staging.length)) ∧
    (s.tablesReady = true → ∀ (dest st port : Byte),
      (64 ≤ dest.toNat ∨ mappingArg st port = none →
        exec (.stageMap l dest st port) s = .next (s.respond l 9 .badArgument .none)) ∧
      ∀ (d : Dest) (m : Mapping), d.val = dest.toNat → mappingArg st port = some m →
        (∀ before e after, s.staging = before ++ e :: after → e.dest = d → (∀ x ∈ before, x.dest ≠ d) →
          exec (.stageMap l dest st port) s = .next
            ({ s with staging := before ++ StagedEntry.mk d m :: after }.respond l 9 .done
              (.staged (before.length + 1) s.staging.length))) ∧
        ((∀ x ∈ s.staging, x.dest ≠ d) → s.staging.length < 16 → exec (.stageMap l dest st port) s = .next
          ({ s with staging := s.staging ++ [StagedEntry.mk d m] }.respond l 9 .done
            (.staged (s.staging.length + 1) (s.staging.length + 1)))) ∧
        ((∀ x ∈ s.staging, x.dest ≠ d) → 16 ≤ s.staging.length →
          exec (.stageMap l dest st port) s = .next (s.respond l 9 .full .none)))

/-- COMMIT MAP applies the whole staging list at one event: each destination takes its staged state and port and keeps
its drain count; counts toward a destination taken to VOID are cleared, with WITHDRAWN in list order on each UP
ingress that held one; the list is then empty (R34, R35, R17, R27). An empty list is answered EMPTY (R36). -/
def Obligations.CommitAppliesTheWholeStagingList : Prop :=
  ∀ (s : State) (l : MgmtLink), s.held = none → s.holder = some l → s.tablesReady = true →
    (s.staging = [] → exec (.commitMap l) s = .next (s.respond l 11 .empty .none)) ∧
    (s.staging ≠ [] → (s.staging.map StagedEntry.dest).Nodup →
      let withdrawn (i : Port) : List Dest :=
        (s.staging.filter fun e => decide (e.map = .void ∧ (s.portMap.get e.dest).map ≠ .void ∧
          s.link i = .up ∧ ∃ c, s.count i e.dest c ≠ 0)).map StagedEntry.dest
      ∃ t, exec (.commitMap l) s = .next t ∧
        (∀ e ∈ s.staging, t.portMap.get e.dest = { s.portMap.get e.dest with map := e.map }) ∧
        (∀ d, (∀ e ∈ s.staging, e.dest ≠ d) → t.portMap.get d = s.portMap.get d) ∧
        (∀ i d c, t.count i d c =
          if (s.portMap.get d).map ≠ .void ∧ ⟨d, .void⟩ ∈ s.staging then 0 else s.count i d c) ∧
        (∀ i, t.transmit.get i =
          { s.transmit.get i with words := (s.transmit.get i).words ++ (withdrawn i).map .withdrawn }) ∧
        t = { s with
          portMap := t.portMap, matrix := t.matrix, transmit := t.transmit, staging := []
          out := s.out ++ [.response l ⟨11, .done, .committed s.staging.length
            ((List.finRange 32).map fun i => (withdrawn i).length).sum⟩] })

/-- READ STAGING, READ MAP, READ GROUP and READ REQUESTS return what R32, R38, R112 and R21 say, and change nothing else;
the entries of a row are its non-zero counts in ascending order of destination and class. -/
def Obligations.TableReadsReturnTheTables : Prop :=
  ∀ (s : State) (l : MgmtLink), s.held = none →
    exec (.readStaging l) s = .next (s.respond l 12 .done (.staging s.staging s.holder)) ∧
    (s.tablesReady = true →
      exec (.readMap l) s = .next (s.respond l 13 .done (.map ((List.finRange 64).map s.portMap.get))) ∧
      ∀ (g : BitVec 16) (k : Group), k.val = g.toNat →
        exec (.readGroup l g) s = .next (s.respond l 15 .done (.group k (s.groups.get k)))) ∧
    ∀ (port : Byte) (p : Port), p.val = port.toNat →
      ∃ entries : List (Dest × Cls × Nat),
        exec (.readRequests l port) s = .next (s.respond l 16 .done
          (.requests p (s.intakes.get p).queue.length (s.intakes.get p).hold (s.intakes.get p).blocked entries)) ∧
        (∀ d c n, (d, c, n) ∈ entries ↔ n ≠ 0 ∧ s.count p d c = n) ∧
        entries.Pairwise fun a b => a.1 < b.1 ∨ (a.1 = b.1 ∧ a.2.1 < b.2.1)

/-- WRITE GROUP from the holder replaces the entry whole, recording each member once, and is answered with the number
recorded; a field out of range refuses it (R110, R111). That a yes or no byte above 1 is out of range is the model's
reading (log 12). -/
def Obligations.WriteGroupReplacesTheEntryWhole : Prop :=
  ∀ (s : State) (l : MgmtLink) (g : BitVec 16) (v pr : Byte) (ms : List Byte), s.held = none → s.holder = some l →
    s.tablesReady = true →
    (∀ (k : Group) (v' pr' : Bool) (ds : List Dest), k.val = g.toNat → flagArg v = some v' → flagArg pr = some pr' →
      membersArg ms = some ds → exec (.writeGroup l g v pr ms) s = .next
        ({ s with groups := s.groups.set k ⟨v', ds, pr'⟩ }.respond l 14 .done (.number ds.length))) ∧
    (flagArg v = none ∨ flagArg pr = none ∨ membersArg ms = none →
      exec (.writeGroup l g v pr ms) s = .next (s.respond l 14 .badArgument .none))

/-! ### Reading a port; events, capture, tallies and meters (chapters 8 and 9) -/

/-- READ PORT returns the values of R165 as they stand, with the time to each expiry in whole microseconds, and clears
only the sending link's alignment-lost sticky (R151, R66, R92, R108, R133). An expiry whose time has passed without
having been taken shows 0, which is the model's reading (log 22). -/
def Obligations.ReadPortReturnsThePortAndClearsOneSticky : Prop :=
  ∀ (s : State) (l : MgmtLink) (port : Byte) (p : Port), s.held = none → p.val = port.toNat →
    let x := s.links.get p
    let a := s.arbiters.get p
    exec (.readPort l port) s = .next
      ((s.updLink p fun y =>
        match l with
        | .a => { y with stickyA := false }
        | .b => { y with stickyB := false }).respond l 7 .done (.port
          { link := x.link, presence := x.presence, goodMarks := x.goodMarks, framingRun := x.framingRun
            retry := x.retry, windowCount := x.windowCount, enable := x.enable, holdEnable := x.holdEnable
            threshold := x.threshold
            sticky := match l with
              | .a => x.stickyA
              | .b => x.stickyB
            credit := a.credit, inFlight := a.inFlight, policy := a.policy, sole := a.sole, turn := a.turn, u := a.u
            ptrs := a.ptrs, deliveryLength := a.delivery.length
            nextTag := (s.grantLists.get p).nextTag
            grants := (s.records p).map fun r => GrantReport.mk r.tag r.cls r.target (r.expiry.map fun due => (due - s.now) / 100)
            bufferCount := x.bufferCount
            queue := (s.transmit.get p).queue.map fun e =>
              match e with
              | .unicast src c d _ => TxReport.unicast src c d
              | .copy k => TxReport.copy k
            sending := (s.transmit.get p).sending
            mcastQueue := s.mcastQueues.get p
            delivery := a.delivery }))

/-- READ EVENTS, CLEAR EVENTS and SET MASK act on the sending link's view alone (R175, R176). READ CAPTURE returns the
record and more-faults; CLEAR CAPTURE from the holder empties them and returns what they held (R178). -/
def Obligations.EventCommandsAndCaptureCommands : Prop :=
  (∀ (s : State) (l : MgmtLink), s.held = none →
    exec (.readEvents l) s = .next
      (s.respond l 17 .done (.events ((s.view l).flags &&& (s.view l).mask) (s.view l).mask)) ∧
    ∀ (ks : BitVec 16) (set : EventSet), ks.toNat = set.toNat →
      exec (.clearEvents l ks) s = .next
        ((s.setView l ⟨(s.view l).flags &&& ~~~set, (s.view l).mask⟩).respond l 18 .done
          (.visible ((s.view l).flags &&& ~~~set &&& (s.view l).mask))) ∧
      exec (.setMask l ks) s = .next
        ((s.setView l ⟨(s.view l).flags, set⟩).respond l 19 .done (.visible ((s.view l).flags &&& set)))) ∧
  ∀ (s : State) (l : MgmtLink), s.held = none →
    exec (.readCapture l) s = .next (s.respond l 20 .done (.capture s.capture s.moreFaults)) ∧
    (s.holder = some l → exec (.clearCapture l) s = .next
      ({ s with capture := none, moreFaults := false }.respond l 21 .done (.capture s.capture s.moreFaults))) ∧
    (s.holder ≠ some l → exec (.clearCapture l) s = .next (s.respond l 21 .notSteering .none))

/-- READ TALLIES returns the seven tallies of a port; CLEAR TALLIES from the holder sets those of one port, or of all
ports for 255, to 0 (R180, section 11.3). -/
def Obligations.TalliesAreReadAndCleared : Prop :=
  ∀ (s : State) (l : MgmtLink), s.held = none →
    (∀ (port : Byte) (p : Port), p.val = port.toNat →
      exec (.readTallies l port) s = .next (s.respond l 22 .done (.tallies (s.links.get p).tallies)) ∧
      (s.holder = some l → exec (.clearTallies l port) s = .next
        ((s.updLink p fun y => { y with tallies := ⟨0, 0, 0, 0, 0, 0, 0⟩ }).respond l 23 .done .none))) ∧
    (s.holder = some l → exec (.clearTallies l 255) s = .next
      ({ s with links := Bank.tab fun p => { s.links.get p with tallies := ⟨0, 0, 0, 0, 0, 0, 0⟩ } }.respond l 23
        .done .none))

/-- START METER, STOP METER, the gate expiry and READ METER follow the states of the channel (R182 to R184). -/
def Obligations.MetersAreStartedStoppedGatedAndRead : Prop :=
  ∀ (s : State) (l : MgmtLink) (chan : Byte) (m : Chan), s.held = none → m.val = chan.toNat →
    let x := s.meters.get m
    let busy := x.state = .counting ∧ x.gate ≠ .opened
    (s.holder = some l → ∀ (port direction gate : Byte) (p : Port) (d : Direction) (g : Gate), p.val = port.toNat →
      directionArg direction = some d → gateArg gate = some g →
      (busy → exec (.startMeter l chan port direction gate) s = .next (s.respond l 24 .meterBusy .none)) ∧
      (¬ busy → exec (.startMeter l chan port direction gate) s = .next
        ({ s with
          meters := s.meters.set m
            { state := .counting, port := p, direction := d, gate := g, timer := g.time.map (s.now + ·)
              count := 0 } }.respond l 24 .done .none))) ∧
    (s.holder = some l →
      (x.state = .counting → exec (.stopMeter l chan) s = .next
        ({ s with meters := s.meters.set m { x with state := .done, timer := none } }.respond l 25 .done
          (.meterState .done))) ∧
      (x.state ≠ .counting → exec (.stopMeter l chan) s = .next (s.respond l 25 .done (.meterState x.state)))) ∧
    (∀ due, x.state = .counting → x.timer = some due → exec (.meterGateExpiry m due) s = .next
      ({ s with
        now := max s.now due
        meters := s.meters.set m { x with state := .done, timer := none } }.raise .meterDone)) ∧
    (∀ due, x.state ≠ .counting ∨ x.timer ≠ some due → exec (.meterGateExpiry m due) s = .next s) ∧
    (busy → exec (.readMeter l chan) s = .next (s.respond l 26 .meterBusy .none)) ∧
    (¬ busy → exec (.readMeter l chan) s = .next
      (s.respond l 26 .done (.meter x.state x.port x.direction x.gate x.count)))

end Statements
end

