-- ==== Sys2Proof/Laws/State.lean ====
section
/-! SUPPORT. Laws/State.lean: what each update of the state leaves in each field, one lemma per field. -/

namespace Sys2Proof.Machine.State

/-! ### updLink -/

@[simp] theorem updLink_links (s : State) (p : Port) (f : LinkPort → LinkPort) : (s.updLink p f).links = s.links.upd p f := rfl
@[simp] theorem updLink_intakes (s : State) (p : Port) (f : LinkPort → LinkPort) : (s.updLink p f).intakes = s.intakes := rfl
@[simp] theorem updLink_matrix (s : State) (p : Port) (f : LinkPort → LinkPort) : (s.updLink p f).matrix = s.matrix := rfl
@[simp] theorem updLink_absorbPtr (s : State) (p : Port) (f : LinkPort → LinkPort) : (s.updLink p f).absorbPtr = s.absorbPtr := rfl
@[simp] theorem updLink_portMap (s : State) (p : Port) (f : LinkPort → LinkPort) : (s.updLink p f).portMap = s.portMap := rfl
@[simp] theorem updLink_staging (s : State) (p : Port) (f : LinkPort → LinkPort) : (s.updLink p f).staging = s.staging := rfl
@[simp] theorem updLink_tablesReady (s : State) (p : Port) (f : LinkPort → LinkPort) : (s.updLink p f).tablesReady = s.tablesReady := rfl
@[simp] theorem updLink_tableInit (s : State) (p : Port) (f : LinkPort → LinkPort) : (s.updLink p f).tableInit = s.tableInit := rfl
@[simp] theorem updLink_arbiters (s : State) (p : Port) (f : LinkPort → LinkPort) : (s.updLink p f).arbiters = s.arbiters := rfl
@[simp] theorem updLink_grantLists (s : State) (p : Port) (f : LinkPort → LinkPort) : (s.updLink p f).grantLists = s.grantLists := rfl
@[simp] theorem updLink_grantWindow (s : State) (p : Port) (f : LinkPort → LinkPort) : (s.updLink p f).grantWindow = s.grantWindow := rfl
@[simp] theorem updLink_transmit (s : State) (p : Port) (f : LinkPort → LinkPort) : (s.updLink p f).transmit = s.transmit := rfl
@[simp] theorem updLink_groups (s : State) (p : Port) (f : LinkPort → LinkPort) : (s.updLink p f).groups = s.groups := rfl
@[simp] theorem updLink_mcastQueues (s : State) (p : Port) (f : LinkPort → LinkPort) : (s.updLink p f).mcastQueues = s.mcastQueues := rfl
@[simp] theorem updLink_allocPtr (s : State) (p : Port) (f : LinkPort → LinkPort) : (s.updLink p f).allocPtr = s.allocPtr := rfl
@[simp] theorem updLink_slots (s : State) (p : Port) (f : LinkPort → LinkPort) : (s.updLink p f).slots = s.slots := rfl
@[simp] theorem updLink_discardedA (s : State) (p : Port) (f : LinkPort → LinkPort) : (s.updLink p f).discardedA = s.discardedA := rfl
@[simp] theorem updLink_discardedB (s : State) (p : Port) (f : LinkPort → LinkPort) : (s.updLink p f).discardedB = s.discardedB := rfl
@[simp] theorem updLink_holder (s : State) (p : Port) (f : LinkPort → LinkPort) : (s.updLink p f).holder = s.holder := rfl
@[simp] theorem updLink_claimTimer (s : State) (p : Port) (f : LinkPort → LinkPort) : (s.updLink p f).claimTimer = s.claimTimer := rfl
@[simp] theorem updLink_claimTimeout (s : State) (p : Port) (f : LinkPort → LinkPort) : (s.updLink p f).claimTimeout = s.claimTimeout := rfl
@[simp] theorem updLink_viewA (s : State) (p : Port) (f : LinkPort → LinkPort) : (s.updLink p f).viewA = s.viewA := rfl
@[simp] theorem updLink_viewB (s : State) (p : Port) (f : LinkPort → LinkPort) : (s.updLink p f).viewB = s.viewB := rfl
@[simp] theorem updLink_capture (s : State) (p : Port) (f : LinkPort → LinkPort) : (s.updLink p f).capture = s.capture := rfl
@[simp] theorem updLink_moreFaults (s : State) (p : Port) (f : LinkPort → LinkPort) : (s.updLink p f).moreFaults = s.moreFaults := rfl
@[simp] theorem updLink_meters (s : State) (p : Port) (f : LinkPort → LinkPort) : (s.updLink p f).meters = s.meters := rfl
@[simp] theorem updLink_plane (s : State) (p : Port) (f : LinkPort → LinkPort) : (s.updLink p f).plane = s.plane := rfl
@[simp] theorem updLink_startCause (s : State) (p : Port) (f : LinkPort → LinkPort) : (s.updLink p f).startCause = s.startCause := rfl
@[simp] theorem updLink_held (s : State) (p : Port) (f : LinkPort → LinkPort) : (s.updLink p f).held = s.held := rfl
@[simp] theorem updLink_now (s : State) (p : Port) (f : LinkPort → LinkPort) : (s.updLink p f).now = s.now := rfl
@[simp] theorem updLink_out (s : State) (p : Port) (f : LinkPort → LinkPort) : (s.updLink p f).out = s.out := rfl
@[simp] theorem updLink_freeCount (s : State) (p : Port) (f : LinkPort → LinkPort) : (s.updLink p f).freeCount = s.freeCount := rfl
@[simp] theorem updLink_pending (s : State) (p : Port) (f : LinkPort → LinkPort) : (s.updLink p f).pending = s.pending := rfl

/-! ### updIntake -/

@[simp] theorem updIntake_links (s : State) (p : Port) (f : Intake → Intake) : (s.updIntake p f).links = s.links := rfl
@[simp] theorem updIntake_intakes (s : State) (p : Port) (f : Intake → Intake) : (s.updIntake p f).intakes = s.intakes.upd p f := rfl
@[simp] theorem updIntake_matrix (s : State) (p : Port) (f : Intake → Intake) : (s.updIntake p f).matrix = s.matrix := rfl
@[simp] theorem updIntake_absorbPtr (s : State) (p : Port) (f : Intake → Intake) : (s.updIntake p f).absorbPtr = s.absorbPtr := rfl
@[simp] theorem updIntake_portMap (s : State) (p : Port) (f : Intake → Intake) : (s.updIntake p f).portMap = s.portMap := rfl
@[simp] theorem updIntake_staging (s : State) (p : Port) (f : Intake → Intake) : (s.updIntake p f).staging = s.staging := rfl
@[simp] theorem updIntake_tablesReady (s : State) (p : Port) (f : Intake → Intake) : (s.updIntake p f).tablesReady = s.tablesReady := rfl
@[simp] theorem updIntake_tableInit (s : State) (p : Port) (f : Intake → Intake) : (s.updIntake p f).tableInit = s.tableInit := rfl
@[simp] theorem updIntake_arbiters (s : State) (p : Port) (f : Intake → Intake) : (s.updIntake p f).arbiters = s.arbiters := rfl
@[simp] theorem updIntake_grantLists (s : State) (p : Port) (f : Intake → Intake) : (s.updIntake p f).grantLists = s.grantLists := rfl
@[simp] theorem updIntake_grantWindow (s : State) (p : Port) (f : Intake → Intake) : (s.updIntake p f).grantWindow = s.grantWindow := rfl
@[simp] theorem updIntake_transmit (s : State) (p : Port) (f : Intake → Intake) : (s.updIntake p f).transmit = s.transmit := rfl
@[simp] theorem updIntake_groups (s : State) (p : Port) (f : Intake → Intake) : (s.updIntake p f).groups = s.groups := rfl
@[simp] theorem updIntake_mcastQueues (s : State) (p : Port) (f : Intake → Intake) : (s.updIntake p f).mcastQueues = s.mcastQueues := rfl
@[simp] theorem updIntake_allocPtr (s : State) (p : Port) (f : Intake → Intake) : (s.updIntake p f).allocPtr = s.allocPtr := rfl
@[simp] theorem updIntake_slots (s : State) (p : Port) (f : Intake → Intake) : (s.updIntake p f).slots = s.slots := rfl
@[simp] theorem updIntake_discardedA (s : State) (p : Port) (f : Intake → Intake) : (s.updIntake p f).discardedA = s.discardedA := rfl
@[simp] theorem updIntake_discardedB (s : State) (p : Port) (f : Intake → Intake) : (s.updIntake p f).discardedB = s.discardedB := rfl
@[simp] theorem updIntake_holder (s : State) (p : Port) (f : Intake → Intake) : (s.updIntake p f).holder = s.holder := rfl
@[simp] theorem updIntake_claimTimer (s : State) (p : Port) (f : Intake → Intake) : (s.updIntake p f).claimTimer = s.claimTimer := rfl
@[simp] theorem updIntake_claimTimeout (s : State) (p : Port) (f : Intake → Intake) : (s.updIntake p f).claimTimeout = s.claimTimeout := rfl
@[simp] theorem updIntake_viewA (s : State) (p : Port) (f : Intake → Intake) : (s.updIntake p f).viewA = s.viewA := rfl
@[simp] theorem updIntake_viewB (s : State) (p : Port) (f : Intake → Intake) : (s.updIntake p f).viewB = s.viewB := rfl
@[simp] theorem updIntake_capture (s : State) (p : Port) (f : Intake → Intake) : (s.updIntake p f).capture = s.capture := rfl
@[simp] theorem updIntake_moreFaults (s : State) (p : Port) (f : Intake → Intake) : (s.updIntake p f).moreFaults = s.moreFaults := rfl
@[simp] theorem updIntake_meters (s : State) (p : Port) (f : Intake → Intake) : (s.updIntake p f).meters = s.meters := rfl
@[simp] theorem updIntake_plane (s : State) (p : Port) (f : Intake → Intake) : (s.updIntake p f).plane = s.plane := rfl
@[simp] theorem updIntake_startCause (s : State) (p : Port) (f : Intake → Intake) : (s.updIntake p f).startCause = s.startCause := rfl
@[simp] theorem updIntake_held (s : State) (p : Port) (f : Intake → Intake) : (s.updIntake p f).held = s.held := rfl
@[simp] theorem updIntake_now (s : State) (p : Port) (f : Intake → Intake) : (s.updIntake p f).now = s.now := rfl
@[simp] theorem updIntake_out (s : State) (p : Port) (f : Intake → Intake) : (s.updIntake p f).out = s.out := rfl
@[simp] theorem updIntake_freeCount (s : State) (p : Port) (f : Intake → Intake) : (s.updIntake p f).freeCount = s.freeCount := rfl
@[simp] theorem updIntake_pending (s : State) (p : Port) (f : Intake → Intake) : (s.updIntake p f).pending = s.pending := rfl

/-! ### updArb -/

@[simp] theorem updArb_links (s : State) (j : Port) (f : Arbiter → Arbiter) : (s.updArb j f).links = s.links := rfl
@[simp] theorem updArb_intakes (s : State) (j : Port) (f : Arbiter → Arbiter) : (s.updArb j f).intakes = s.intakes := rfl
@[simp] theorem updArb_matrix (s : State) (j : Port) (f : Arbiter → Arbiter) : (s.updArb j f).matrix = s.matrix := rfl
@[simp] theorem updArb_absorbPtr (s : State) (j : Port) (f : Arbiter → Arbiter) : (s.updArb j f).absorbPtr = s.absorbPtr := rfl
@[simp] theorem updArb_portMap (s : State) (j : Port) (f : Arbiter → Arbiter) : (s.updArb j f).portMap = s.portMap := rfl
@[simp] theorem updArb_staging (s : State) (j : Port) (f : Arbiter → Arbiter) : (s.updArb j f).staging = s.staging := rfl
@[simp] theorem updArb_tablesReady (s : State) (j : Port) (f : Arbiter → Arbiter) : (s.updArb j f).tablesReady = s.tablesReady := rfl
@[simp] theorem updArb_tableInit (s : State) (j : Port) (f : Arbiter → Arbiter) : (s.updArb j f).tableInit = s.tableInit := rfl
@[simp] theorem updArb_arbiters (s : State) (j : Port) (f : Arbiter → Arbiter) : (s.updArb j f).arbiters = s.arbiters.upd j f := rfl
@[simp] theorem updArb_grantLists (s : State) (j : Port) (f : Arbiter → Arbiter) : (s.updArb j f).grantLists = s.grantLists := rfl
@[simp] theorem updArb_grantWindow (s : State) (j : Port) (f : Arbiter → Arbiter) : (s.updArb j f).grantWindow = s.grantWindow := rfl
@[simp] theorem updArb_transmit (s : State) (j : Port) (f : Arbiter → Arbiter) : (s.updArb j f).transmit = s.transmit := rfl
@[simp] theorem updArb_groups (s : State) (j : Port) (f : Arbiter → Arbiter) : (s.updArb j f).groups = s.groups := rfl
@[simp] theorem updArb_mcastQueues (s : State) (j : Port) (f : Arbiter → Arbiter) : (s.updArb j f).mcastQueues = s.mcastQueues := rfl
@[simp] theorem updArb_allocPtr (s : State) (j : Port) (f : Arbiter → Arbiter) : (s.updArb j f).allocPtr = s.allocPtr := rfl
@[simp] theorem updArb_slots (s : State) (j : Port) (f : Arbiter → Arbiter) : (s.updArb j f).slots = s.slots := rfl
@[simp] theorem updArb_discardedA (s : State) (j : Port) (f : Arbiter → Arbiter) : (s.updArb j f).discardedA = s.discardedA := rfl
@[simp] theorem updArb_discardedB (s : State) (j : Port) (f : Arbiter → Arbiter) : (s.updArb j f).discardedB = s.discardedB := rfl
@[simp] theorem updArb_holder (s : State) (j : Port) (f : Arbiter → Arbiter) : (s.updArb j f).holder = s.holder := rfl
@[simp] theorem updArb_claimTimer (s : State) (j : Port) (f : Arbiter → Arbiter) : (s.updArb j f).claimTimer = s.claimTimer := rfl
@[simp] theorem updArb_claimTimeout (s : State) (j : Port) (f : Arbiter → Arbiter) : (s.updArb j f).claimTimeout = s.claimTimeout := rfl
@[simp] theorem updArb_viewA (s : State) (j : Port) (f : Arbiter → Arbiter) : (s.updArb j f).viewA = s.viewA := rfl
@[simp] theorem updArb_viewB (s : State) (j : Port) (f : Arbiter → Arbiter) : (s.updArb j f).viewB = s.viewB := rfl
@[simp] theorem updArb_capture (s : State) (j : Port) (f : Arbiter → Arbiter) : (s.updArb j f).capture = s.capture := rfl
@[simp] theorem updArb_moreFaults (s : State) (j : Port) (f : Arbiter → Arbiter) : (s.updArb j f).moreFaults = s.moreFaults := rfl
@[simp] theorem updArb_meters (s : State) (j : Port) (f : Arbiter → Arbiter) : (s.updArb j f).meters = s.meters := rfl
@[simp] theorem updArb_plane (s : State) (j : Port) (f : Arbiter → Arbiter) : (s.updArb j f).plane = s.plane := rfl
@[simp] theorem updArb_startCause (s : State) (j : Port) (f : Arbiter → Arbiter) : (s.updArb j f).startCause = s.startCause := rfl
@[simp] theorem updArb_held (s : State) (j : Port) (f : Arbiter → Arbiter) : (s.updArb j f).held = s.held := rfl
@[simp] theorem updArb_now (s : State) (j : Port) (f : Arbiter → Arbiter) : (s.updArb j f).now = s.now := rfl
@[simp] theorem updArb_out (s : State) (j : Port) (f : Arbiter → Arbiter) : (s.updArb j f).out = s.out := rfl
@[simp] theorem updArb_freeCount (s : State) (j : Port) (f : Arbiter → Arbiter) : (s.updArb j f).freeCount = s.freeCount := rfl
@[simp] theorem updArb_pending (s : State) (j : Port) (f : Arbiter → Arbiter) : (s.updArb j f).pending = s.pending := rfl

/-! ### updGrants -/

@[simp] theorem updGrants_links (s : State) (i : Port) (f : GrantList → GrantList) : (s.updGrants i f).links = s.links := rfl
@[simp] theorem updGrants_intakes (s : State) (i : Port) (f : GrantList → GrantList) : (s.updGrants i f).intakes = s.intakes := rfl
@[simp] theorem updGrants_matrix (s : State) (i : Port) (f : GrantList → GrantList) : (s.updGrants i f).matrix = s.matrix := rfl
@[simp] theorem updGrants_absorbPtr (s : State) (i : Port) (f : GrantList → GrantList) : (s.updGrants i f).absorbPtr = s.absorbPtr := rfl
@[simp] theorem updGrants_portMap (s : State) (i : Port) (f : GrantList → GrantList) : (s.updGrants i f).portMap = s.portMap := rfl
@[simp] theorem updGrants_staging (s : State) (i : Port) (f : GrantList → GrantList) : (s.updGrants i f).staging = s.staging := rfl
@[simp] theorem updGrants_tablesReady (s : State) (i : Port) (f : GrantList → GrantList) : (s.updGrants i f).tablesReady = s.tablesReady := rfl
@[simp] theorem updGrants_tableInit (s : State) (i : Port) (f : GrantList → GrantList) : (s.updGrants i f).tableInit = s.tableInit := rfl
@[simp] theorem updGrants_arbiters (s : State) (i : Port) (f : GrantList → GrantList) : (s.updGrants i f).arbiters = s.arbiters := rfl
@[simp] theorem updGrants_grantLists (s : State) (i : Port) (f : GrantList → GrantList) : (s.updGrants i f).grantLists = s.grantLists.upd i f := rfl
@[simp] theorem updGrants_grantWindow (s : State) (i : Port) (f : GrantList → GrantList) : (s.updGrants i f).grantWindow = s.grantWindow := rfl
@[simp] theorem updGrants_transmit (s : State) (i : Port) (f : GrantList → GrantList) : (s.updGrants i f).transmit = s.transmit := rfl
@[simp] theorem updGrants_groups (s : State) (i : Port) (f : GrantList → GrantList) : (s.updGrants i f).groups = s.groups := rfl
@[simp] theorem updGrants_mcastQueues (s : State) (i : Port) (f : GrantList → GrantList) : (s.updGrants i f).mcastQueues = s.mcastQueues := rfl
@[simp] theorem updGrants_allocPtr (s : State) (i : Port) (f : GrantList → GrantList) : (s.updGrants i f).allocPtr = s.allocPtr := rfl
@[simp] theorem updGrants_slots (s : State) (i : Port) (f : GrantList → GrantList) : (s.updGrants i f).slots = s.slots := rfl
@[simp] theorem updGrants_discardedA (s : State) (i : Port) (f : GrantList → GrantList) : (s.updGrants i f).discardedA = s.discardedA := rfl
@[simp] theorem updGrants_discardedB (s : State) (i : Port) (f : GrantList → GrantList) : (s.updGrants i f).discardedB = s.discardedB := rfl
@[simp] theorem updGrants_holder (s : State) (i : Port) (f : GrantList → GrantList) : (s.updGrants i f).holder = s.holder := rfl
@[simp] theorem updGrants_claimTimer (s : State) (i : Port) (f : GrantList → GrantList) : (s.updGrants i f).claimTimer = s.claimTimer := rfl
@[simp] theorem updGrants_claimTimeout (s : State) (i : Port) (f : GrantList → GrantList) : (s.updGrants i f).claimTimeout = s.claimTimeout := rfl
@[simp] theorem updGrants_viewA (s : State) (i : Port) (f : GrantList → GrantList) : (s.updGrants i f).viewA = s.viewA := rfl
@[simp] theorem updGrants_viewB (s : State) (i : Port) (f : GrantList → GrantList) : (s.updGrants i f).viewB = s.viewB := rfl
@[simp] theorem updGrants_capture (s : State) (i : Port) (f : GrantList → GrantList) : (s.updGrants i f).capture = s.capture := rfl
@[simp] theorem updGrants_moreFaults (s : State) (i : Port) (f : GrantList → GrantList) : (s.updGrants i f).moreFaults = s.moreFaults := rfl
@[simp] theorem updGrants_meters (s : State) (i : Port) (f : GrantList → GrantList) : (s.updGrants i f).meters = s.meters := rfl
@[simp] theorem updGrants_plane (s : State) (i : Port) (f : GrantList → GrantList) : (s.updGrants i f).plane = s.plane := rfl
@[simp] theorem updGrants_startCause (s : State) (i : Port) (f : GrantList → GrantList) : (s.updGrants i f).startCause = s.startCause := rfl
@[simp] theorem updGrants_held (s : State) (i : Port) (f : GrantList → GrantList) : (s.updGrants i f).held = s.held := rfl
@[simp] theorem updGrants_now (s : State) (i : Port) (f : GrantList → GrantList) : (s.updGrants i f).now = s.now := rfl
@[simp] theorem updGrants_out (s : State) (i : Port) (f : GrantList → GrantList) : (s.updGrants i f).out = s.out := rfl
@[simp] theorem updGrants_freeCount (s : State) (i : Port) (f : GrantList → GrantList) : (s.updGrants i f).freeCount = s.freeCount := rfl
@[simp] theorem updGrants_pending (s : State) (i : Port) (f : GrantList → GrantList) : (s.updGrants i f).pending = s.pending := rfl

/-! ### updTx -/

@[simp] theorem updTx_links (s : State) (j : Port) (f : Transmit → Transmit) : (s.updTx j f).links = s.links := rfl
@[simp] theorem updTx_intakes (s : State) (j : Port) (f : Transmit → Transmit) : (s.updTx j f).intakes = s.intakes := rfl
@[simp] theorem updTx_matrix (s : State) (j : Port) (f : Transmit → Transmit) : (s.updTx j f).matrix = s.matrix := rfl
@[simp] theorem updTx_absorbPtr (s : State) (j : Port) (f : Transmit → Transmit) : (s.updTx j f).absorbPtr = s.absorbPtr := rfl
@[simp] theorem updTx_portMap (s : State) (j : Port) (f : Transmit → Transmit) : (s.updTx j f).portMap = s.portMap := rfl
@[simp] theorem updTx_staging (s : State) (j : Port) (f : Transmit → Transmit) : (s.updTx j f).staging = s.staging := rfl
@[simp] theorem updTx_tablesReady (s : State) (j : Port) (f : Transmit → Transmit) : (s.updTx j f).tablesReady = s.tablesReady := rfl
@[simp] theorem updTx_tableInit (s : State) (j : Port) (f : Transmit → Transmit) : (s.updTx j f).tableInit = s.tableInit := rfl
@[simp] theorem updTx_arbiters (s : State) (j : Port) (f : Transmit → Transmit) : (s.updTx j f).arbiters = s.arbiters := rfl
@[simp] theorem updTx_grantLists (s : State) (j : Port) (f : Transmit → Transmit) : (s.updTx j f).grantLists = s.grantLists := rfl
@[simp] theorem updTx_grantWindow (s : State) (j : Port) (f : Transmit → Transmit) : (s.updTx j f).grantWindow = s.grantWindow := rfl
@[simp] theorem updTx_transmit (s : State) (j : Port) (f : Transmit → Transmit) : (s.updTx j f).transmit = s.transmit.upd j f := rfl
@[simp] theorem updTx_groups (s : State) (j : Port) (f : Transmit → Transmit) : (s.updTx j f).groups = s.groups := rfl
@[simp] theorem updTx_mcastQueues (s : State) (j : Port) (f : Transmit → Transmit) : (s.updTx j f).mcastQueues = s.mcastQueues := rfl
@[simp] theorem updTx_allocPtr (s : State) (j : Port) (f : Transmit → Transmit) : (s.updTx j f).allocPtr = s.allocPtr := rfl
@[simp] theorem updTx_slots (s : State) (j : Port) (f : Transmit → Transmit) : (s.updTx j f).slots = s.slots := rfl
@[simp] theorem updTx_discardedA (s : State) (j : Port) (f : Transmit → Transmit) : (s.updTx j f).discardedA = s.discardedA := rfl
@[simp] theorem updTx_discardedB (s : State) (j : Port) (f : Transmit → Transmit) : (s.updTx j f).discardedB = s.discardedB := rfl
@[simp] theorem updTx_holder (s : State) (j : Port) (f : Transmit → Transmit) : (s.updTx j f).holder = s.holder := rfl
@[simp] theorem updTx_claimTimer (s : State) (j : Port) (f : Transmit → Transmit) : (s.updTx j f).claimTimer = s.claimTimer := rfl
@[simp] theorem updTx_claimTimeout (s : State) (j : Port) (f : Transmit → Transmit) : (s.updTx j f).claimTimeout = s.claimTimeout := rfl
@[simp] theorem updTx_viewA (s : State) (j : Port) (f : Transmit → Transmit) : (s.updTx j f).viewA = s.viewA := rfl
@[simp] theorem updTx_viewB (s : State) (j : Port) (f : Transmit → Transmit) : (s.updTx j f).viewB = s.viewB := rfl
@[simp] theorem updTx_capture (s : State) (j : Port) (f : Transmit → Transmit) : (s.updTx j f).capture = s.capture := rfl
@[simp] theorem updTx_moreFaults (s : State) (j : Port) (f : Transmit → Transmit) : (s.updTx j f).moreFaults = s.moreFaults := rfl
@[simp] theorem updTx_meters (s : State) (j : Port) (f : Transmit → Transmit) : (s.updTx j f).meters = s.meters := rfl
@[simp] theorem updTx_plane (s : State) (j : Port) (f : Transmit → Transmit) : (s.updTx j f).plane = s.plane := rfl
@[simp] theorem updTx_startCause (s : State) (j : Port) (f : Transmit → Transmit) : (s.updTx j f).startCause = s.startCause := rfl
@[simp] theorem updTx_held (s : State) (j : Port) (f : Transmit → Transmit) : (s.updTx j f).held = s.held := rfl
@[simp] theorem updTx_now (s : State) (j : Port) (f : Transmit → Transmit) : (s.updTx j f).now = s.now := rfl
@[simp] theorem updTx_out (s : State) (j : Port) (f : Transmit → Transmit) : (s.updTx j f).out = s.out := rfl
@[simp] theorem updTx_freeCount (s : State) (j : Port) (f : Transmit → Transmit) : (s.updTx j f).freeCount = s.freeCount := rfl
@[simp] theorem updTx_pending (s : State) (j : Port) (f : Transmit → Transmit) : (s.updTx j f).pending = s.pending := rfl

/-! ### updEntry -/

@[simp] theorem updEntry_links (s : State) (d : Dest) (f : MapEntry → MapEntry) : (s.updEntry d f).links = s.links := rfl
@[simp] theorem updEntry_intakes (s : State) (d : Dest) (f : MapEntry → MapEntry) : (s.updEntry d f).intakes = s.intakes := rfl
@[simp] theorem updEntry_matrix (s : State) (d : Dest) (f : MapEntry → MapEntry) : (s.updEntry d f).matrix = s.matrix := rfl
@[simp] theorem updEntry_absorbPtr (s : State) (d : Dest) (f : MapEntry → MapEntry) : (s.updEntry d f).absorbPtr = s.absorbPtr := rfl
@[simp] theorem updEntry_portMap (s : State) (d : Dest) (f : MapEntry → MapEntry) : (s.updEntry d f).portMap = s.portMap.upd d f := rfl
@[simp] theorem updEntry_staging (s : State) (d : Dest) (f : MapEntry → MapEntry) : (s.updEntry d f).staging = s.staging := rfl
@[simp] theorem updEntry_tablesReady (s : State) (d : Dest) (f : MapEntry → MapEntry) : (s.updEntry d f).tablesReady = s.tablesReady := rfl
@[simp] theorem updEntry_tableInit (s : State) (d : Dest) (f : MapEntry → MapEntry) : (s.updEntry d f).tableInit = s.tableInit := rfl
@[simp] theorem updEntry_arbiters (s : State) (d : Dest) (f : MapEntry → MapEntry) : (s.updEntry d f).arbiters = s.arbiters := rfl
@[simp] theorem updEntry_grantLists (s : State) (d : Dest) (f : MapEntry → MapEntry) : (s.updEntry d f).grantLists = s.grantLists := rfl
@[simp] theorem updEntry_grantWindow (s : State) (d : Dest) (f : MapEntry → MapEntry) : (s.updEntry d f).grantWindow = s.grantWindow := rfl
@[simp] theorem updEntry_transmit (s : State) (d : Dest) (f : MapEntry → MapEntry) : (s.updEntry d f).transmit = s.transmit := rfl
@[simp] theorem updEntry_groups (s : State) (d : Dest) (f : MapEntry → MapEntry) : (s.updEntry d f).groups = s.groups := rfl
@[simp] theorem updEntry_mcastQueues (s : State) (d : Dest) (f : MapEntry → MapEntry) : (s.updEntry d f).mcastQueues = s.mcastQueues := rfl
@[simp] theorem updEntry_allocPtr (s : State) (d : Dest) (f : MapEntry → MapEntry) : (s.updEntry d f).allocPtr = s.allocPtr := rfl
@[simp] theorem updEntry_slots (s : State) (d : Dest) (f : MapEntry → MapEntry) : (s.updEntry d f).slots = s.slots := rfl
@[simp] theorem updEntry_discardedA (s : State) (d : Dest) (f : MapEntry → MapEntry) : (s.updEntry d f).discardedA = s.discardedA := rfl
@[simp] theorem updEntry_discardedB (s : State) (d : Dest) (f : MapEntry → MapEntry) : (s.updEntry d f).discardedB = s.discardedB := rfl
@[simp] theorem updEntry_holder (s : State) (d : Dest) (f : MapEntry → MapEntry) : (s.updEntry d f).holder = s.holder := rfl
@[simp] theorem updEntry_claimTimer (s : State) (d : Dest) (f : MapEntry → MapEntry) : (s.updEntry d f).claimTimer = s.claimTimer := rfl
@[simp] theorem updEntry_claimTimeout (s : State) (d : Dest) (f : MapEntry → MapEntry) : (s.updEntry d f).claimTimeout = s.claimTimeout := rfl
@[simp] theorem updEntry_viewA (s : State) (d : Dest) (f : MapEntry → MapEntry) : (s.updEntry d f).viewA = s.viewA := rfl
@[simp] theorem updEntry_viewB (s : State) (d : Dest) (f : MapEntry → MapEntry) : (s.updEntry d f).viewB = s.viewB := rfl
@[simp] theorem updEntry_capture (s : State) (d : Dest) (f : MapEntry → MapEntry) : (s.updEntry d f).capture = s.capture := rfl
@[simp] theorem updEntry_moreFaults (s : State) (d : Dest) (f : MapEntry → MapEntry) : (s.updEntry d f).moreFaults = s.moreFaults := rfl
@[simp] theorem updEntry_meters (s : State) (d : Dest) (f : MapEntry → MapEntry) : (s.updEntry d f).meters = s.meters := rfl
@[simp] theorem updEntry_plane (s : State) (d : Dest) (f : MapEntry → MapEntry) : (s.updEntry d f).plane = s.plane := rfl
@[simp] theorem updEntry_startCause (s : State) (d : Dest) (f : MapEntry → MapEntry) : (s.updEntry d f).startCause = s.startCause := rfl
@[simp] theorem updEntry_held (s : State) (d : Dest) (f : MapEntry → MapEntry) : (s.updEntry d f).held = s.held := rfl
@[simp] theorem updEntry_now (s : State) (d : Dest) (f : MapEntry → MapEntry) : (s.updEntry d f).now = s.now := rfl
@[simp] theorem updEntry_out (s : State) (d : Dest) (f : MapEntry → MapEntry) : (s.updEntry d f).out = s.out := rfl
@[simp] theorem updEntry_freeCount (s : State) (d : Dest) (f : MapEntry → MapEntry) : (s.updEntry d f).freeCount = s.freeCount := rfl
@[simp] theorem updEntry_pending (s : State) (d : Dest) (f : MapEntry → MapEntry) : (s.updEntry d f).pending = s.pending := rfl

/-! ### updSlot -/

@[simp] theorem updSlot_links (s : State) (k : SlotNo) (f : Slot → Slot) : (s.updSlot k f).links = s.links := rfl
@[simp] theorem updSlot_intakes (s : State) (k : SlotNo) (f : Slot → Slot) : (s.updSlot k f).intakes = s.intakes := rfl
@[simp] theorem updSlot_matrix (s : State) (k : SlotNo) (f : Slot → Slot) : (s.updSlot k f).matrix = s.matrix := rfl
@[simp] theorem updSlot_absorbPtr (s : State) (k : SlotNo) (f : Slot → Slot) : (s.updSlot k f).absorbPtr = s.absorbPtr := rfl
@[simp] theorem updSlot_portMap (s : State) (k : SlotNo) (f : Slot → Slot) : (s.updSlot k f).portMap = s.portMap := rfl
@[simp] theorem updSlot_staging (s : State) (k : SlotNo) (f : Slot → Slot) : (s.updSlot k f).staging = s.staging := rfl
@[simp] theorem updSlot_tablesReady (s : State) (k : SlotNo) (f : Slot → Slot) : (s.updSlot k f).tablesReady = s.tablesReady := rfl
@[simp] theorem updSlot_tableInit (s : State) (k : SlotNo) (f : Slot → Slot) : (s.updSlot k f).tableInit = s.tableInit := rfl
@[simp] theorem updSlot_arbiters (s : State) (k : SlotNo) (f : Slot → Slot) : (s.updSlot k f).arbiters = s.arbiters := rfl
@[simp] theorem updSlot_grantLists (s : State) (k : SlotNo) (f : Slot → Slot) : (s.updSlot k f).grantLists = s.grantLists := rfl
@[simp] theorem updSlot_grantWindow (s : State) (k : SlotNo) (f : Slot → Slot) : (s.updSlot k f).grantWindow = s.grantWindow := rfl
@[simp] theorem updSlot_transmit (s : State) (k : SlotNo) (f : Slot → Slot) : (s.updSlot k f).transmit = s.transmit := rfl
@[simp] theorem updSlot_groups (s : State) (k : SlotNo) (f : Slot → Slot) : (s.updSlot k f).groups = s.groups := rfl
@[simp] theorem updSlot_mcastQueues (s : State) (k : SlotNo) (f : Slot → Slot) : (s.updSlot k f).mcastQueues = s.mcastQueues := rfl
@[simp] theorem updSlot_allocPtr (s : State) (k : SlotNo) (f : Slot → Slot) : (s.updSlot k f).allocPtr = s.allocPtr := rfl
@[simp] theorem updSlot_slots (s : State) (k : SlotNo) (f : Slot → Slot) : (s.updSlot k f).slots = s.slots.upd k f := rfl
@[simp] theorem updSlot_discardedA (s : State) (k : SlotNo) (f : Slot → Slot) : (s.updSlot k f).discardedA = s.discardedA := rfl
@[simp] theorem updSlot_discardedB (s : State) (k : SlotNo) (f : Slot → Slot) : (s.updSlot k f).discardedB = s.discardedB := rfl
@[simp] theorem updSlot_holder (s : State) (k : SlotNo) (f : Slot → Slot) : (s.updSlot k f).holder = s.holder := rfl
@[simp] theorem updSlot_claimTimer (s : State) (k : SlotNo) (f : Slot → Slot) : (s.updSlot k f).claimTimer = s.claimTimer := rfl
@[simp] theorem updSlot_claimTimeout (s : State) (k : SlotNo) (f : Slot → Slot) : (s.updSlot k f).claimTimeout = s.claimTimeout := rfl
@[simp] theorem updSlot_viewA (s : State) (k : SlotNo) (f : Slot → Slot) : (s.updSlot k f).viewA = s.viewA := rfl
@[simp] theorem updSlot_viewB (s : State) (k : SlotNo) (f : Slot → Slot) : (s.updSlot k f).viewB = s.viewB := rfl
@[simp] theorem updSlot_capture (s : State) (k : SlotNo) (f : Slot → Slot) : (s.updSlot k f).capture = s.capture := rfl
@[simp] theorem updSlot_moreFaults (s : State) (k : SlotNo) (f : Slot → Slot) : (s.updSlot k f).moreFaults = s.moreFaults := rfl
@[simp] theorem updSlot_meters (s : State) (k : SlotNo) (f : Slot → Slot) : (s.updSlot k f).meters = s.meters := rfl
@[simp] theorem updSlot_plane (s : State) (k : SlotNo) (f : Slot → Slot) : (s.updSlot k f).plane = s.plane := rfl
@[simp] theorem updSlot_startCause (s : State) (k : SlotNo) (f : Slot → Slot) : (s.updSlot k f).startCause = s.startCause := rfl
@[simp] theorem updSlot_held (s : State) (k : SlotNo) (f : Slot → Slot) : (s.updSlot k f).held = s.held := rfl
@[simp] theorem updSlot_now (s : State) (k : SlotNo) (f : Slot → Slot) : (s.updSlot k f).now = s.now := rfl
@[simp] theorem updSlot_out (s : State) (k : SlotNo) (f : Slot → Slot) : (s.updSlot k f).out = s.out := rfl
@[simp] theorem updSlot_freeCount (s : State) (k : SlotNo) (f : Slot → Slot) : (s.updSlot k f).freeCount = s.freeCount := rfl
@[simp] theorem updSlot_pending (s : State) (k : SlotNo) (f : Slot → Slot) : (s.updSlot k f).pending = s.pending := rfl

/-! ### setCount -/

@[simp] theorem setCount_links (s : State) (i : Port) (d : Dest) (c : Cls) (n : Nat) : (s.setCount i d c n).links = s.links := rfl
@[simp] theorem setCount_intakes (s : State) (i : Port) (d : Dest) (c : Cls) (n : Nat) : (s.setCount i d c n).intakes = s.intakes := rfl
@[simp] theorem setCount_matrix (s : State) (i : Port) (d : Dest) (c : Cls) (n : Nat) : (s.setCount i d c n).matrix = s.matrix.upd i fun row => row.upd d fun cs => cs.set c n := rfl
@[simp] theorem setCount_absorbPtr (s : State) (i : Port) (d : Dest) (c : Cls) (n : Nat) : (s.setCount i d c n).absorbPtr = s.absorbPtr := rfl
@[simp] theorem setCount_portMap (s : State) (i : Port) (d : Dest) (c : Cls) (n : Nat) : (s.setCount i d c n).portMap = s.portMap := rfl
@[simp] theorem setCount_staging (s : State) (i : Port) (d : Dest) (c : Cls) (n : Nat) : (s.setCount i d c n).staging = s.staging := rfl
@[simp] theorem setCount_tablesReady (s : State) (i : Port) (d : Dest) (c : Cls) (n : Nat) : (s.setCount i d c n).tablesReady = s.tablesReady := rfl
@[simp] theorem setCount_tableInit (s : State) (i : Port) (d : Dest) (c : Cls) (n : Nat) : (s.setCount i d c n).tableInit = s.tableInit := rfl
@[simp] theorem setCount_arbiters (s : State) (i : Port) (d : Dest) (c : Cls) (n : Nat) : (s.setCount i d c n).arbiters = s.arbiters := rfl
@[simp] theorem setCount_grantLists (s : State) (i : Port) (d : Dest) (c : Cls) (n : Nat) : (s.setCount i d c n).grantLists = s.grantLists := rfl
@[simp] theorem setCount_grantWindow (s : State) (i : Port) (d : Dest) (c : Cls) (n : Nat) : (s.setCount i d c n).grantWindow = s.grantWindow := rfl
@[simp] theorem setCount_transmit (s : State) (i : Port) (d : Dest) (c : Cls) (n : Nat) : (s.setCount i d c n).transmit = s.transmit := rfl
@[simp] theorem setCount_groups (s : State) (i : Port) (d : Dest) (c : Cls) (n : Nat) : (s.setCount i d c n).groups = s.groups := rfl
@[simp] theorem setCount_mcastQueues (s : State) (i : Port) (d : Dest) (c : Cls) (n : Nat) : (s.setCount i d c n).mcastQueues = s.mcastQueues := rfl
@[simp] theorem setCount_allocPtr (s : State) (i : Port) (d : Dest) (c : Cls) (n : Nat) : (s.setCount i d c n).allocPtr = s.allocPtr := rfl
@[simp] theorem setCount_slots (s : State) (i : Port) (d : Dest) (c : Cls) (n : Nat) : (s.setCount i d c n).slots = s.slots := rfl
@[simp] theorem setCount_discardedA (s : State) (i : Port) (d : Dest) (c : Cls) (n : Nat) : (s.setCount i d c n).discardedA = s.discardedA := rfl
@[simp] theorem setCount_discardedB (s : State) (i : Port) (d : Dest) (c : Cls) (n : Nat) : (s.setCount i d c n).discardedB = s.discardedB := rfl
@[simp] theorem setCount_holder (s : State) (i : Port) (d : Dest) (c : Cls) (n : Nat) : (s.setCount i d c n).holder = s.holder := rfl
@[simp] theorem setCount_claimTimer (s : State) (i : Port) (d : Dest) (c : Cls) (n : Nat) : (s.setCount i d c n).claimTimer = s.claimTimer := rfl
@[simp] theorem setCount_claimTimeout (s : State) (i : Port) (d : Dest) (c : Cls) (n : Nat) : (s.setCount i d c n).claimTimeout = s.claimTimeout := rfl
@[simp] theorem setCount_viewA (s : State) (i : Port) (d : Dest) (c : Cls) (n : Nat) : (s.setCount i d c n).viewA = s.viewA := rfl
@[simp] theorem setCount_viewB (s : State) (i : Port) (d : Dest) (c : Cls) (n : Nat) : (s.setCount i d c n).viewB = s.viewB := rfl
@[simp] theorem setCount_capture (s : State) (i : Port) (d : Dest) (c : Cls) (n : Nat) : (s.setCount i d c n).capture = s.capture := rfl
@[simp] theorem setCount_moreFaults (s : State) (i : Port) (d : Dest) (c : Cls) (n : Nat) : (s.setCount i d c n).moreFaults = s.moreFaults := rfl
@[simp] theorem setCount_meters (s : State) (i : Port) (d : Dest) (c : Cls) (n : Nat) : (s.setCount i d c n).meters = s.meters := rfl
@[simp] theorem setCount_plane (s : State) (i : Port) (d : Dest) (c : Cls) (n : Nat) : (s.setCount i d c n).plane = s.plane := rfl
@[simp] theorem setCount_startCause (s : State) (i : Port) (d : Dest) (c : Cls) (n : Nat) : (s.setCount i d c n).startCause = s.startCause := rfl
@[simp] theorem setCount_held (s : State) (i : Port) (d : Dest) (c : Cls) (n : Nat) : (s.setCount i d c n).held = s.held := rfl
@[simp] theorem setCount_now (s : State) (i : Port) (d : Dest) (c : Cls) (n : Nat) : (s.setCount i d c n).now = s.now := rfl
@[simp] theorem setCount_out (s : State) (i : Port) (d : Dest) (c : Cls) (n : Nat) : (s.setCount i d c n).out = s.out := rfl
@[simp] theorem setCount_freeCount (s : State) (i : Port) (d : Dest) (c : Cls) (n : Nat) : (s.setCount i d c n).freeCount = s.freeCount := rfl
@[simp] theorem setCount_pending (s : State) (i : Port) (d : Dest) (c : Cls) (n : Nat) : (s.setCount i d c n).pending = s.pending := rfl

/-! ### emit -/

@[simp] theorem emit_links (s : State) (o : Output) : (s.emit o).links = s.links := rfl
@[simp] theorem emit_intakes (s : State) (o : Output) : (s.emit o).intakes = s.intakes := rfl
@[simp] theorem emit_matrix (s : State) (o : Output) : (s.emit o).matrix = s.matrix := rfl
@[simp] theorem emit_absorbPtr (s : State) (o : Output) : (s.emit o).absorbPtr = s.absorbPtr := rfl
@[simp] theorem emit_portMap (s : State) (o : Output) : (s.emit o).portMap = s.portMap := rfl
@[simp] theorem emit_staging (s : State) (o : Output) : (s.emit o).staging = s.staging := rfl
@[simp] theorem emit_tablesReady (s : State) (o : Output) : (s.emit o).tablesReady = s.tablesReady := rfl
@[simp] theorem emit_tableInit (s : State) (o : Output) : (s.emit o).tableInit = s.tableInit := rfl
@[simp] theorem emit_arbiters (s : State) (o : Output) : (s.emit o).arbiters = s.arbiters := rfl
@[simp] theorem emit_grantLists (s : State) (o : Output) : (s.emit o).grantLists = s.grantLists := rfl
@[simp] theorem emit_grantWindow (s : State) (o : Output) : (s.emit o).grantWindow = s.grantWindow := rfl
@[simp] theorem emit_transmit (s : State) (o : Output) : (s.emit o).transmit = s.transmit := rfl
@[simp] theorem emit_groups (s : State) (o : Output) : (s.emit o).groups = s.groups := rfl
@[simp] theorem emit_mcastQueues (s : State) (o : Output) : (s.emit o).mcastQueues = s.mcastQueues := rfl
@[simp] theorem emit_allocPtr (s : State) (o : Output) : (s.emit o).allocPtr = s.allocPtr := rfl
@[simp] theorem emit_slots (s : State) (o : Output) : (s.emit o).slots = s.slots := rfl
@[simp] theorem emit_discardedA (s : State) (o : Output) : (s.emit o).discardedA = s.discardedA := rfl
@[simp] theorem emit_discardedB (s : State) (o : Output) : (s.emit o).discardedB = s.discardedB := rfl
@[simp] theorem emit_holder (s : State) (o : Output) : (s.emit o).holder = s.holder := rfl
@[simp] theorem emit_claimTimer (s : State) (o : Output) : (s.emit o).claimTimer = s.claimTimer := rfl
@[simp] theorem emit_claimTimeout (s : State) (o : Output) : (s.emit o).claimTimeout = s.claimTimeout := rfl
@[simp] theorem emit_viewA (s : State) (o : Output) : (s.emit o).viewA = s.viewA := rfl
@[simp] theorem emit_viewB (s : State) (o : Output) : (s.emit o).viewB = s.viewB := rfl
@[simp] theorem emit_capture (s : State) (o : Output) : (s.emit o).capture = s.capture := rfl
@[simp] theorem emit_moreFaults (s : State) (o : Output) : (s.emit o).moreFaults = s.moreFaults := rfl
@[simp] theorem emit_meters (s : State) (o : Output) : (s.emit o).meters = s.meters := rfl
@[simp] theorem emit_plane (s : State) (o : Output) : (s.emit o).plane = s.plane := rfl
@[simp] theorem emit_startCause (s : State) (o : Output) : (s.emit o).startCause = s.startCause := rfl
@[simp] theorem emit_held (s : State) (o : Output) : (s.emit o).held = s.held := rfl
@[simp] theorem emit_now (s : State) (o : Output) : (s.emit o).now = s.now := rfl
@[simp] theorem emit_out (s : State) (o : Output) : (s.emit o).out = s.out ++ [o] := rfl
@[simp] theorem emit_freeCount (s : State) (o : Output) : (s.emit o).freeCount = s.freeCount := rfl
@[simp] theorem emit_pending (s : State) (o : Output) : (s.emit o).pending = s.pending := rfl

/-! ### respond -/

@[simp] theorem respond_links (s : State) (l : MgmtLink) (code : Byte) (st : Status) (data : ResponseData) : (s.respond l code st data).links = s.links := rfl
@[simp] theorem respond_intakes (s : State) (l : MgmtLink) (code : Byte) (st : Status) (data : ResponseData) : (s.respond l code st data).intakes = s.intakes := rfl
@[simp] theorem respond_matrix (s : State) (l : MgmtLink) (code : Byte) (st : Status) (data : ResponseData) : (s.respond l code st data).matrix = s.matrix := rfl
@[simp] theorem respond_absorbPtr (s : State) (l : MgmtLink) (code : Byte) (st : Status) (data : ResponseData) : (s.respond l code st data).absorbPtr = s.absorbPtr := rfl
@[simp] theorem respond_portMap (s : State) (l : MgmtLink) (code : Byte) (st : Status) (data : ResponseData) : (s.respond l code st data).portMap = s.portMap := rfl
@[simp] theorem respond_staging (s : State) (l : MgmtLink) (code : Byte) (st : Status) (data : ResponseData) : (s.respond l code st data).staging = s.staging := rfl
@[simp] theorem respond_tablesReady (s : State) (l : MgmtLink) (code : Byte) (st : Status) (data : ResponseData) : (s.respond l code st data).tablesReady = s.tablesReady := rfl
@[simp] theorem respond_tableInit (s : State) (l : MgmtLink) (code : Byte) (st : Status) (data : ResponseData) : (s.respond l code st data).tableInit = s.tableInit := rfl
@[simp] theorem respond_arbiters (s : State) (l : MgmtLink) (code : Byte) (st : Status) (data : ResponseData) : (s.respond l code st data).arbiters = s.arbiters := rfl
@[simp] theorem respond_grantLists (s : State) (l : MgmtLink) (code : Byte) (st : Status) (data : ResponseData) : (s.respond l code st data).grantLists = s.grantLists := rfl
@[simp] theorem respond_grantWindow (s : State) (l : MgmtLink) (code : Byte) (st : Status) (data : ResponseData) : (s.respond l code st data).grantWindow = s.grantWindow := rfl
@[simp] theorem respond_transmit (s : State) (l : MgmtLink) (code : Byte) (st : Status) (data : ResponseData) : (s.respond l code st data).transmit = s.transmit := rfl
@[simp] theorem respond_groups (s : State) (l : MgmtLink) (code : Byte) (st : Status) (data : ResponseData) : (s.respond l code st data).groups = s.groups := rfl
@[simp] theorem respond_mcastQueues (s : State) (l : MgmtLink) (code : Byte) (st : Status) (data : ResponseData) : (s.respond l code st data).mcastQueues = s.mcastQueues := rfl
@[simp] theorem respond_allocPtr (s : State) (l : MgmtLink) (code : Byte) (st : Status) (data : ResponseData) : (s.respond l code st data).allocPtr = s.allocPtr := rfl
@[simp] theorem respond_slots (s : State) (l : MgmtLink) (code : Byte) (st : Status) (data : ResponseData) : (s.respond l code st data).slots = s.slots := rfl
@[simp] theorem respond_discardedA (s : State) (l : MgmtLink) (code : Byte) (st : Status) (data : ResponseData) : (s.respond l code st data).discardedA = s.discardedA := rfl
@[simp] theorem respond_discardedB (s : State) (l : MgmtLink) (code : Byte) (st : Status) (data : ResponseData) : (s.respond l code st data).discardedB = s.discardedB := rfl
@[simp] theorem respond_holder (s : State) (l : MgmtLink) (code : Byte) (st : Status) (data : ResponseData) : (s.respond l code st data).holder = s.holder := rfl
@[simp] theorem respond_claimTimer (s : State) (l : MgmtLink) (code : Byte) (st : Status) (data : ResponseData) : (s.respond l code st data).claimTimer = s.claimTimer := rfl
@[simp] theorem respond_claimTimeout (s : State) (l : MgmtLink) (code : Byte) (st : Status) (data : ResponseData) : (s.respond l code st data).claimTimeout = s.claimTimeout := rfl
@[simp] theorem respond_viewA (s : State) (l : MgmtLink) (code : Byte) (st : Status) (data : ResponseData) : (s.respond l code st data).viewA = s.viewA := rfl
@[simp] theorem respond_viewB (s : State) (l : MgmtLink) (code : Byte) (st : Status) (data : ResponseData) : (s.respond l code st data).viewB = s.viewB := rfl
@[simp] theorem respond_capture (s : State) (l : MgmtLink) (code : Byte) (st : Status) (data : ResponseData) : (s.respond l code st data).capture = s.capture := rfl
@[simp] theorem respond_moreFaults (s : State) (l : MgmtLink) (code : Byte) (st : Status) (data : ResponseData) : (s.respond l code st data).moreFaults = s.moreFaults := rfl
@[simp] theorem respond_meters (s : State) (l : MgmtLink) (code : Byte) (st : Status) (data : ResponseData) : (s.respond l code st data).meters = s.meters := rfl
@[simp] theorem respond_plane (s : State) (l : MgmtLink) (code : Byte) (st : Status) (data : ResponseData) : (s.respond l code st data).plane = s.plane := rfl
@[simp] theorem respond_startCause (s : State) (l : MgmtLink) (code : Byte) (st : Status) (data : ResponseData) : (s.respond l code st data).startCause = s.startCause := rfl
@[simp] theorem respond_held (s : State) (l : MgmtLink) (code : Byte) (st : Status) (data : ResponseData) : (s.respond l code st data).held = s.held := rfl
@[simp] theorem respond_now (s : State) (l : MgmtLink) (code : Byte) (st : Status) (data : ResponseData) : (s.respond l code st data).now = s.now := rfl
@[simp] theorem respond_out (s : State) (l : MgmtLink) (code : Byte) (st : Status) (data : ResponseData) : (s.respond l code st data).out = s.out ++ [.response l ⟨code, st, data⟩] := rfl
@[simp] theorem respond_freeCount (s : State) (l : MgmtLink) (code : Byte) (st : Status) (data : ResponseData) : (s.respond l code st data).freeCount = s.freeCount := rfl
@[simp] theorem respond_pending (s : State) (l : MgmtLink) (code : Byte) (st : Status) (data : ResponseData) : (s.respond l code st data).pending = s.pending := rfl

/-! ### raise -/

@[simp] theorem raise_links (s : State) (k : EventKind) : (s.raise k).links = s.links := rfl
@[simp] theorem raise_intakes (s : State) (k : EventKind) : (s.raise k).intakes = s.intakes := rfl
@[simp] theorem raise_matrix (s : State) (k : EventKind) : (s.raise k).matrix = s.matrix := rfl
@[simp] theorem raise_absorbPtr (s : State) (k : EventKind) : (s.raise k).absorbPtr = s.absorbPtr := rfl
@[simp] theorem raise_portMap (s : State) (k : EventKind) : (s.raise k).portMap = s.portMap := rfl
@[simp] theorem raise_staging (s : State) (k : EventKind) : (s.raise k).staging = s.staging := rfl
@[simp] theorem raise_tablesReady (s : State) (k : EventKind) : (s.raise k).tablesReady = s.tablesReady := rfl
@[simp] theorem raise_tableInit (s : State) (k : EventKind) : (s.raise k).tableInit = s.tableInit := rfl
@[simp] theorem raise_arbiters (s : State) (k : EventKind) : (s.raise k).arbiters = s.arbiters := rfl
@[simp] theorem raise_grantLists (s : State) (k : EventKind) : (s.raise k).grantLists = s.grantLists := rfl
@[simp] theorem raise_grantWindow (s : State) (k : EventKind) : (s.raise k).grantWindow = s.grantWindow := rfl
@[simp] theorem raise_transmit (s : State) (k : EventKind) : (s.raise k).transmit = s.transmit := rfl
@[simp] theorem raise_groups (s : State) (k : EventKind) : (s.raise k).groups = s.groups := rfl
@[simp] theorem raise_mcastQueues (s : State) (k : EventKind) : (s.raise k).mcastQueues = s.mcastQueues := rfl
@[simp] theorem raise_allocPtr (s : State) (k : EventKind) : (s.raise k).allocPtr = s.allocPtr := rfl
@[simp] theorem raise_slots (s : State) (k : EventKind) : (s.raise k).slots = s.slots := rfl
@[simp] theorem raise_discardedA (s : State) (k : EventKind) : (s.raise k).discardedA = s.discardedA := rfl
@[simp] theorem raise_discardedB (s : State) (k : EventKind) : (s.raise k).discardedB = s.discardedB := rfl
@[simp] theorem raise_holder (s : State) (k : EventKind) : (s.raise k).holder = s.holder := rfl
@[simp] theorem raise_claimTimer (s : State) (k : EventKind) : (s.raise k).claimTimer = s.claimTimer := rfl
@[simp] theorem raise_claimTimeout (s : State) (k : EventKind) : (s.raise k).claimTimeout = s.claimTimeout := rfl
@[simp] theorem raise_viewA (s : State) (k : EventKind) : (s.raise k).viewA = s.viewA.raise k := rfl
@[simp] theorem raise_viewB (s : State) (k : EventKind) : (s.raise k).viewB = s.viewB.raise k := rfl
@[simp] theorem raise_capture (s : State) (k : EventKind) : (s.raise k).capture = s.capture := rfl
@[simp] theorem raise_moreFaults (s : State) (k : EventKind) : (s.raise k).moreFaults = s.moreFaults := rfl
@[simp] theorem raise_meters (s : State) (k : EventKind) : (s.raise k).meters = s.meters := rfl
@[simp] theorem raise_plane (s : State) (k : EventKind) : (s.raise k).plane = s.plane := rfl
@[simp] theorem raise_startCause (s : State) (k : EventKind) : (s.raise k).startCause = s.startCause := rfl
@[simp] theorem raise_held (s : State) (k : EventKind) : (s.raise k).held = s.held := rfl
@[simp] theorem raise_now (s : State) (k : EventKind) : (s.raise k).now = s.now := rfl
@[simp] theorem raise_out (s : State) (k : EventKind) : (s.raise k).out = s.out := rfl
@[simp] theorem raise_freeCount (s : State) (k : EventKind) : (s.raise k).freeCount = s.freeCount := rfl
@[simp] theorem raise_pending (s : State) (k : EventKind) : (s.raise k).pending = s.pending := rfl

/-! ### arrive -/

@[simp] theorem arrive_links (s : State) (due : Time) : (s.arrive due).links = s.links := rfl
@[simp] theorem arrive_intakes (s : State) (due : Time) : (s.arrive due).intakes = s.intakes := rfl
@[simp] theorem arrive_matrix (s : State) (due : Time) : (s.arrive due).matrix = s.matrix := rfl
@[simp] theorem arrive_absorbPtr (s : State) (due : Time) : (s.arrive due).absorbPtr = s.absorbPtr := rfl
@[simp] theorem arrive_portMap (s : State) (due : Time) : (s.arrive due).portMap = s.portMap := rfl
@[simp] theorem arrive_staging (s : State) (due : Time) : (s.arrive due).staging = s.staging := rfl
@[simp] theorem arrive_tablesReady (s : State) (due : Time) : (s.arrive due).tablesReady = s.tablesReady := rfl
@[simp] theorem arrive_tableInit (s : State) (due : Time) : (s.arrive due).tableInit = s.tableInit := rfl
@[simp] theorem arrive_arbiters (s : State) (due : Time) : (s.arrive due).arbiters = s.arbiters := rfl
@[simp] theorem arrive_grantLists (s : State) (due : Time) : (s.arrive due).grantLists = s.grantLists := rfl
@[simp] theorem arrive_grantWindow (s : State) (due : Time) : (s.arrive due).grantWindow = s.grantWindow := rfl
@[simp] theorem arrive_transmit (s : State) (due : Time) : (s.arrive due).transmit = s.transmit := rfl
@[simp] theorem arrive_groups (s : State) (due : Time) : (s.arrive due).groups = s.groups := rfl
@[simp] theorem arrive_mcastQueues (s : State) (due : Time) : (s.arrive due).mcastQueues = s.mcastQueues := rfl
@[simp] theorem arrive_allocPtr (s : State) (due : Time) : (s.arrive due).allocPtr = s.allocPtr := rfl
@[simp] theorem arrive_slots (s : State) (due : Time) : (s.arrive due).slots = s.slots := rfl
@[simp] theorem arrive_discardedA (s : State) (due : Time) : (s.arrive due).discardedA = s.discardedA := rfl
@[simp] theorem arrive_discardedB (s : State) (due : Time) : (s.arrive due).discardedB = s.discardedB := rfl
@[simp] theorem arrive_holder (s : State) (due : Time) : (s.arrive due).holder = s.holder := rfl
@[simp] theorem arrive_claimTimer (s : State) (due : Time) : (s.arrive due).claimTimer = s.claimTimer := rfl
@[simp] theorem arrive_claimTimeout (s : State) (due : Time) : (s.arrive due).claimTimeout = s.claimTimeout := rfl
@[simp] theorem arrive_viewA (s : State) (due : Time) : (s.arrive due).viewA = s.viewA := rfl
@[simp] theorem arrive_viewB (s : State) (due : Time) : (s.arrive due).viewB = s.viewB := rfl
@[simp] theorem arrive_capture (s : State) (due : Time) : (s.arrive due).capture = s.capture := rfl
@[simp] theorem arrive_moreFaults (s : State) (due : Time) : (s.arrive due).moreFaults = s.moreFaults := rfl
@[simp] theorem arrive_meters (s : State) (due : Time) : (s.arrive due).meters = s.meters := rfl
@[simp] theorem arrive_plane (s : State) (due : Time) : (s.arrive due).plane = s.plane := rfl
@[simp] theorem arrive_startCause (s : State) (due : Time) : (s.arrive due).startCause = s.startCause := rfl
@[simp] theorem arrive_held (s : State) (due : Time) : (s.arrive due).held = s.held := rfl
@[simp] theorem arrive_now (s : State) (due : Time) : (s.arrive due).now = max s.now due := rfl
@[simp] theorem arrive_out (s : State) (due : Time) : (s.arrive due).out = s.out := rfl
@[simp] theorem arrive_freeCount (s : State) (due : Time) : (s.arrive due).freeCount = s.freeCount := rfl
@[simp] theorem arrive_pending (s : State) (due : Time) : (s.arrive due).pending = s.pending := rfl

/-! ### countMeters -/

@[simp] theorem countMeters_links (s : State) (d : Direction) (p : Port) : (s.countMeters d p).links = s.links := rfl
@[simp] theorem countMeters_intakes (s : State) (d : Direction) (p : Port) : (s.countMeters d p).intakes = s.intakes := rfl
@[simp] theorem countMeters_matrix (s : State) (d : Direction) (p : Port) : (s.countMeters d p).matrix = s.matrix := rfl
@[simp] theorem countMeters_absorbPtr (s : State) (d : Direction) (p : Port) : (s.countMeters d p).absorbPtr = s.absorbPtr := rfl
@[simp] theorem countMeters_portMap (s : State) (d : Direction) (p : Port) : (s.countMeters d p).portMap = s.portMap := rfl
@[simp] theorem countMeters_staging (s : State) (d : Direction) (p : Port) : (s.countMeters d p).staging = s.staging := rfl
@[simp] theorem countMeters_tablesReady (s : State) (d : Direction) (p : Port) : (s.countMeters d p).tablesReady = s.tablesReady := rfl
@[simp] theorem countMeters_tableInit (s : State) (d : Direction) (p : Port) : (s.countMeters d p).tableInit = s.tableInit := rfl
@[simp] theorem countMeters_arbiters (s : State) (d : Direction) (p : Port) : (s.countMeters d p).arbiters = s.arbiters := rfl
@[simp] theorem countMeters_grantLists (s : State) (d : Direction) (p : Port) : (s.countMeters d p).grantLists = s.grantLists := rfl
@[simp] theorem countMeters_grantWindow (s : State) (d : Direction) (p : Port) : (s.countMeters d p).grantWindow = s.grantWindow := rfl
@[simp] theorem countMeters_transmit (s : State) (d : Direction) (p : Port) : (s.countMeters d p).transmit = s.transmit := rfl
@[simp] theorem countMeters_groups (s : State) (d : Direction) (p : Port) : (s.countMeters d p).groups = s.groups := rfl
@[simp] theorem countMeters_mcastQueues (s : State) (d : Direction) (p : Port) : (s.countMeters d p).mcastQueues = s.mcastQueues := rfl
@[simp] theorem countMeters_allocPtr (s : State) (d : Direction) (p : Port) : (s.countMeters d p).allocPtr = s.allocPtr := rfl
@[simp] theorem countMeters_slots (s : State) (d : Direction) (p : Port) : (s.countMeters d p).slots = s.slots := rfl
@[simp] theorem countMeters_discardedA (s : State) (d : Direction) (p : Port) : (s.countMeters d p).discardedA = s.discardedA := rfl
@[simp] theorem countMeters_discardedB (s : State) (d : Direction) (p : Port) : (s.countMeters d p).discardedB = s.discardedB := rfl
@[simp] theorem countMeters_holder (s : State) (d : Direction) (p : Port) : (s.countMeters d p).holder = s.holder := rfl
@[simp] theorem countMeters_claimTimer (s : State) (d : Direction) (p : Port) : (s.countMeters d p).claimTimer = s.claimTimer := rfl
@[simp] theorem countMeters_claimTimeout (s : State) (d : Direction) (p : Port) : (s.countMeters d p).claimTimeout = s.claimTimeout := rfl
@[simp] theorem countMeters_viewA (s : State) (d : Direction) (p : Port) : (s.countMeters d p).viewA = s.viewA := rfl
@[simp] theorem countMeters_viewB (s : State) (d : Direction) (p : Port) : (s.countMeters d p).viewB = s.viewB := rfl
@[simp] theorem countMeters_capture (s : State) (d : Direction) (p : Port) : (s.countMeters d p).capture = s.capture := rfl
@[simp] theorem countMeters_moreFaults (s : State) (d : Direction) (p : Port) : (s.countMeters d p).moreFaults = s.moreFaults := rfl
@[simp] theorem countMeters_meters (s : State) (d : Direction) (p : Port) : (s.countMeters d p).meters = Bank.tab fun m => (s.meters.get m).countAt d p := rfl
@[simp] theorem countMeters_plane (s : State) (d : Direction) (p : Port) : (s.countMeters d p).plane = s.plane := rfl
@[simp] theorem countMeters_startCause (s : State) (d : Direction) (p : Port) : (s.countMeters d p).startCause = s.startCause := rfl
@[simp] theorem countMeters_held (s : State) (d : Direction) (p : Port) : (s.countMeters d p).held = s.held := rfl
@[simp] theorem countMeters_now (s : State) (d : Direction) (p : Port) : (s.countMeters d p).now = s.now := rfl
@[simp] theorem countMeters_out (s : State) (d : Direction) (p : Port) : (s.countMeters d p).out = s.out := rfl
@[simp] theorem countMeters_freeCount (s : State) (d : Direction) (p : Port) : (s.countMeters d p).freeCount = s.freeCount := rfl
@[simp] theorem countMeters_pending (s : State) (d : Direction) (p : Port) : (s.countMeters d p).pending = s.pending := rfl

/-! ### dropSteering -/

@[simp] theorem dropSteering_links (s : State) : (s.dropSteering).links = s.links := rfl
@[simp] theorem dropSteering_intakes (s : State) : (s.dropSteering).intakes = s.intakes := rfl
@[simp] theorem dropSteering_matrix (s : State) : (s.dropSteering).matrix = s.matrix := rfl
@[simp] theorem dropSteering_absorbPtr (s : State) : (s.dropSteering).absorbPtr = s.absorbPtr := rfl
@[simp] theorem dropSteering_portMap (s : State) : (s.dropSteering).portMap = s.portMap := rfl
@[simp] theorem dropSteering_staging (s : State) : (s.dropSteering).staging = [] := rfl
@[simp] theorem dropSteering_tablesReady (s : State) : (s.dropSteering).tablesReady = s.tablesReady := rfl
@[simp] theorem dropSteering_tableInit (s : State) : (s.dropSteering).tableInit = s.tableInit := rfl
@[simp] theorem dropSteering_arbiters (s : State) : (s.dropSteering).arbiters = s.arbiters := rfl
@[simp] theorem dropSteering_grantLists (s : State) : (s.dropSteering).grantLists = s.grantLists := rfl
@[simp] theorem dropSteering_grantWindow (s : State) : (s.dropSteering).grantWindow = s.grantWindow := rfl
@[simp] theorem dropSteering_transmit (s : State) : (s.dropSteering).transmit = s.transmit := rfl
@[simp] theorem dropSteering_groups (s : State) : (s.dropSteering).groups = s.groups := rfl
@[simp] theorem dropSteering_mcastQueues (s : State) : (s.dropSteering).mcastQueues = s.mcastQueues := rfl
@[simp] theorem dropSteering_allocPtr (s : State) : (s.dropSteering).allocPtr = s.allocPtr := rfl
@[simp] theorem dropSteering_slots (s : State) : (s.dropSteering).slots = s.slots := rfl
@[simp] theorem dropSteering_discardedA (s : State) : (s.dropSteering).discardedA = s.discardedA := rfl
@[simp] theorem dropSteering_discardedB (s : State) : (s.dropSteering).discardedB = s.discardedB := rfl
@[simp] theorem dropSteering_holder (s : State) : (s.dropSteering).holder = none := rfl
@[simp] theorem dropSteering_claimTimer (s : State) : (s.dropSteering).claimTimer = none := rfl
@[simp] theorem dropSteering_claimTimeout (s : State) : (s.dropSteering).claimTimeout = s.claimTimeout := rfl
@[simp] theorem dropSteering_viewA (s : State) : (s.dropSteering).viewA = s.viewA := rfl
@[simp] theorem dropSteering_viewB (s : State) : (s.dropSteering).viewB = s.viewB := rfl
@[simp] theorem dropSteering_capture (s : State) : (s.dropSteering).capture = s.capture := rfl
@[simp] theorem dropSteering_moreFaults (s : State) : (s.dropSteering).moreFaults = s.moreFaults := rfl
@[simp] theorem dropSteering_meters (s : State) : (s.dropSteering).meters = s.meters := rfl
@[simp] theorem dropSteering_plane (s : State) : (s.dropSteering).plane = s.plane := rfl
@[simp] theorem dropSteering_startCause (s : State) : (s.dropSteering).startCause = s.startCause := rfl
@[simp] theorem dropSteering_held (s : State) : (s.dropSteering).held = s.held := rfl
@[simp] theorem dropSteering_now (s : State) : (s.dropSteering).now = s.now := rfl
@[simp] theorem dropSteering_out (s : State) : (s.dropSteering).out = s.out := rfl
@[simp] theorem dropSteering_freeCount (s : State) : (s.dropSteering).freeCount = s.freeCount := rfl
@[simp] theorem dropSteering_pending (s : State) : (s.dropSteering).pending = s.pending := rfl

/-! ### startClaim -/

@[simp] theorem startClaim_links (s : State) (l : MgmtLink) : (s.startClaim l).links = s.links := rfl
@[simp] theorem startClaim_intakes (s : State) (l : MgmtLink) : (s.startClaim l).intakes = s.intakes := rfl
@[simp] theorem startClaim_matrix (s : State) (l : MgmtLink) : (s.startClaim l).matrix = s.matrix := rfl
@[simp] theorem startClaim_absorbPtr (s : State) (l : MgmtLink) : (s.startClaim l).absorbPtr = s.absorbPtr := rfl
@[simp] theorem startClaim_portMap (s : State) (l : MgmtLink) : (s.startClaim l).portMap = s.portMap := rfl
@[simp] theorem startClaim_staging (s : State) (l : MgmtLink) : (s.startClaim l).staging = s.staging := rfl
@[simp] theorem startClaim_tablesReady (s : State) (l : MgmtLink) : (s.startClaim l).tablesReady = s.tablesReady := rfl
@[simp] theorem startClaim_tableInit (s : State) (l : MgmtLink) : (s.startClaim l).tableInit = s.tableInit := rfl
@[simp] theorem startClaim_arbiters (s : State) (l : MgmtLink) : (s.startClaim l).arbiters = s.arbiters := rfl
@[simp] theorem startClaim_grantLists (s : State) (l : MgmtLink) : (s.startClaim l).grantLists = s.grantLists := rfl
@[simp] theorem startClaim_grantWindow (s : State) (l : MgmtLink) : (s.startClaim l).grantWindow = s.grantWindow := rfl
@[simp] theorem startClaim_transmit (s : State) (l : MgmtLink) : (s.startClaim l).transmit = s.transmit := rfl
@[simp] theorem startClaim_groups (s : State) (l : MgmtLink) : (s.startClaim l).groups = s.groups := rfl
@[simp] theorem startClaim_mcastQueues (s : State) (l : MgmtLink) : (s.startClaim l).mcastQueues = s.mcastQueues := rfl
@[simp] theorem startClaim_allocPtr (s : State) (l : MgmtLink) : (s.startClaim l).allocPtr = s.allocPtr := rfl
@[simp] theorem startClaim_slots (s : State) (l : MgmtLink) : (s.startClaim l).slots = s.slots := rfl
@[simp] theorem startClaim_discardedA (s : State) (l : MgmtLink) : (s.startClaim l).discardedA = s.discardedA := rfl
@[simp] theorem startClaim_discardedB (s : State) (l : MgmtLink) : (s.startClaim l).discardedB = s.discardedB := rfl
@[simp] theorem startClaim_holder (s : State) (l : MgmtLink) : (s.startClaim l).holder = some l := rfl
@[simp] theorem startClaim_claimTimer (s : State) (l : MgmtLink) : (s.startClaim l).claimTimer = some (s.now + s.claimTimeout.time) := rfl
@[simp] theorem startClaim_claimTimeout (s : State) (l : MgmtLink) : (s.startClaim l).claimTimeout = s.claimTimeout := rfl
@[simp] theorem startClaim_viewA (s : State) (l : MgmtLink) : (s.startClaim l).viewA = s.viewA := rfl
@[simp] theorem startClaim_viewB (s : State) (l : MgmtLink) : (s.startClaim l).viewB = s.viewB := rfl
@[simp] theorem startClaim_capture (s : State) (l : MgmtLink) : (s.startClaim l).capture = s.capture := rfl
@[simp] theorem startClaim_moreFaults (s : State) (l : MgmtLink) : (s.startClaim l).moreFaults = s.moreFaults := rfl
@[simp] theorem startClaim_meters (s : State) (l : MgmtLink) : (s.startClaim l).meters = s.meters := rfl
@[simp] theorem startClaim_plane (s : State) (l : MgmtLink) : (s.startClaim l).plane = s.plane := rfl
@[simp] theorem startClaim_startCause (s : State) (l : MgmtLink) : (s.startClaim l).startCause = s.startCause := rfl
@[simp] theorem startClaim_held (s : State) (l : MgmtLink) : (s.startClaim l).held = s.held := rfl
@[simp] theorem startClaim_now (s : State) (l : MgmtLink) : (s.startClaim l).now = s.now := rfl
@[simp] theorem startClaim_out (s : State) (l : MgmtLink) : (s.startClaim l).out = s.out := rfl
@[simp] theorem startClaim_freeCount (s : State) (l : MgmtLink) : (s.startClaim l).freeCount = s.freeCount := rfl
@[simp] theorem startClaim_pending (s : State) (l : MgmtLink) : (s.startClaim l).pending = s.pending := rfl

/-! ### offer -/

@[simp] theorem offer_links (s : State) (x : FaultRecord) : (s.offer x).links = s.links := by
  unfold offer; split <;> rfl
@[simp] theorem offer_intakes (s : State) (x : FaultRecord) : (s.offer x).intakes = s.intakes := by
  unfold offer; split <;> rfl
@[simp] theorem offer_matrix (s : State) (x : FaultRecord) : (s.offer x).matrix = s.matrix := by
  unfold offer; split <;> rfl
@[simp] theorem offer_absorbPtr (s : State) (x : FaultRecord) : (s.offer x).absorbPtr = s.absorbPtr := by
  unfold offer; split <;> rfl
@[simp] theorem offer_portMap (s : State) (x : FaultRecord) : (s.offer x).portMap = s.portMap := by
  unfold offer; split <;> rfl
@[simp] theorem offer_staging (s : State) (x : FaultRecord) : (s.offer x).staging = s.staging := by
  unfold offer; split <;> rfl
@[simp] theorem offer_tablesReady (s : State) (x : FaultRecord) : (s.offer x).tablesReady = s.tablesReady := by
  unfold offer; split <;> rfl
@[simp] theorem offer_tableInit (s : State) (x : FaultRecord) : (s.offer x).tableInit = s.tableInit := by
  unfold offer; split <;> rfl
@[simp] theorem offer_arbiters (s : State) (x : FaultRecord) : (s.offer x).arbiters = s.arbiters := by
  unfold offer; split <;> rfl
@[simp] theorem offer_grantLists (s : State) (x : FaultRecord) : (s.offer x).grantLists = s.grantLists := by
  unfold offer; split <;> rfl
@[simp] theorem offer_grantWindow (s : State) (x : FaultRecord) : (s.offer x).grantWindow = s.grantWindow := by
  unfold offer; split <;> rfl
@[simp] theorem offer_transmit (s : State) (x : FaultRecord) : (s.offer x).transmit = s.transmit := by
  unfold offer; split <;> rfl
@[simp] theorem offer_groups (s : State) (x : FaultRecord) : (s.offer x).groups = s.groups := by
  unfold offer; split <;> rfl
@[simp] theorem offer_mcastQueues (s : State) (x : FaultRecord) : (s.offer x).mcastQueues = s.mcastQueues := by
  unfold offer; split <;> rfl
@[simp] theorem offer_allocPtr (s : State) (x : FaultRecord) : (s.offer x).allocPtr = s.allocPtr := by
  unfold offer; split <;> rfl
@[simp] theorem offer_slots (s : State) (x : FaultRecord) : (s.offer x).slots = s.slots := by
  unfold offer; split <;> rfl
@[simp] theorem offer_discardedA (s : State) (x : FaultRecord) : (s.offer x).discardedA = s.discardedA := by
  unfold offer; split <;> rfl
@[simp] theorem offer_discardedB (s : State) (x : FaultRecord) : (s.offer x).discardedB = s.discardedB := by
  unfold offer; split <;> rfl
@[simp] theorem offer_holder (s : State) (x : FaultRecord) : (s.offer x).holder = s.holder := by
  unfold offer; split <;> rfl
@[simp] theorem offer_claimTimer (s : State) (x : FaultRecord) : (s.offer x).claimTimer = s.claimTimer := by
  unfold offer; split <;> rfl
@[simp] theorem offer_claimTimeout (s : State) (x : FaultRecord) : (s.offer x).claimTimeout = s.claimTimeout := by
  unfold offer; split <;> rfl
@[simp] theorem offer_meters (s : State) (x : FaultRecord) : (s.offer x).meters = s.meters := by
  unfold offer; split <;> rfl
@[simp] theorem offer_plane (s : State) (x : FaultRecord) : (s.offer x).plane = s.plane := by
  unfold offer; split <;> rfl
@[simp] theorem offer_startCause (s : State) (x : FaultRecord) : (s.offer x).startCause = s.startCause := by
  unfold offer; split <;> rfl
@[simp] theorem offer_held (s : State) (x : FaultRecord) : (s.offer x).held = s.held := by
  unfold offer; split <;> rfl
@[simp] theorem offer_now (s : State) (x : FaultRecord) : (s.offer x).now = s.now := by
  unfold offer; split <;> rfl
@[simp] theorem offer_out (s : State) (x : FaultRecord) : (s.offer x).out = s.out := by
  unfold offer; split <;> rfl
@[simp] theorem offer_freeCount (s : State) (x : FaultRecord) : (s.offer x).freeCount = s.freeCount := by
  unfold offer; split <;> rfl
@[simp] theorem offer_pending (s : State) (x : FaultRecord) : (s.offer x).pending = s.pending := by
  unfold offer; split <;> rfl
@[simp] theorem offer_capture (s : State) (x : FaultRecord) : (s.offer x).capture = some (s.capture.getD x) := by
  unfold offer; split <;> simp_all
@[simp] theorem offer_moreFaults (s : State) (x : FaultRecord) :
    (s.offer x).moreFaults = (s.moreFaults || s.capture.isSome) := by
  unfold offer; split <;> simp_all

/-! ### sendWord -/

@[simp] theorem sendWord_links (s : State) (p : Port) (w : DownWord) : (s.sendWord p w).links = s.links := by
  unfold sendWord; split <;> rfl
@[simp] theorem sendWord_intakes (s : State) (p : Port) (w : DownWord) : (s.sendWord p w).intakes = s.intakes := by
  unfold sendWord; split <;> rfl
@[simp] theorem sendWord_matrix (s : State) (p : Port) (w : DownWord) : (s.sendWord p w).matrix = s.matrix := by
  unfold sendWord; split <;> rfl
@[simp] theorem sendWord_absorbPtr (s : State) (p : Port) (w : DownWord) : (s.sendWord p w).absorbPtr = s.absorbPtr := by
  unfold sendWord; split <;> rfl
@[simp] theorem sendWord_portMap (s : State) (p : Port) (w : DownWord) : (s.sendWord p w).portMap = s.portMap := by
  unfold sendWord; split <;> rfl
@[simp] theorem sendWord_staging (s : State) (p : Port) (w : DownWord) : (s.sendWord p w).staging = s.staging := by
  unfold sendWord; split <;> rfl
@[simp] theorem sendWord_tablesReady (s : State) (p : Port) (w : DownWord) : (s.sendWord p w).tablesReady = s.tablesReady := by
  unfold sendWord; split <;> rfl
@[simp] theorem sendWord_tableInit (s : State) (p : Port) (w : DownWord) : (s.sendWord p w).tableInit = s.tableInit := by
  unfold sendWord; split <;> rfl
@[simp] theorem sendWord_arbiters (s : State) (p : Port) (w : DownWord) : (s.sendWord p w).arbiters = s.arbiters := by
  unfold sendWord; split <;> rfl
@[simp] theorem sendWord_grantLists (s : State) (p : Port) (w : DownWord) : (s.sendWord p w).grantLists = s.grantLists := by
  unfold sendWord; split <;> rfl
@[simp] theorem sendWord_grantWindow (s : State) (p : Port) (w : DownWord) : (s.sendWord p w).grantWindow = s.grantWindow := by
  unfold sendWord; split <;> rfl
@[simp] theorem sendWord_groups (s : State) (p : Port) (w : DownWord) : (s.sendWord p w).groups = s.groups := by
  unfold sendWord; split <;> rfl
@[simp] theorem sendWord_mcastQueues (s : State) (p : Port) (w : DownWord) : (s.sendWord p w).mcastQueues = s.mcastQueues := by
  unfold sendWord; split <;> rfl
@[simp] theorem sendWord_allocPtr (s : State) (p : Port) (w : DownWord) : (s.sendWord p w).allocPtr = s.allocPtr := by
  unfold sendWord; split <;> rfl
@[simp] theorem sendWord_slots (s : State) (p : Port) (w : DownWord) : (s.sendWord p w).slots = s.slots := by
  unfold sendWord; split <;> rfl
@[simp] theorem sendWord_discardedA (s : State) (p : Port) (w : DownWord) : (s.sendWord p w).discardedA = s.discardedA := by
  unfold sendWord; split <;> rfl
@[simp] theorem sendWord_discardedB (s : State) (p : Port) (w : DownWord) : (s.sendWord p w).discardedB = s.discardedB := by
  unfold sendWord; split <;> rfl
@[simp] theorem sendWord_holder (s : State) (p : Port) (w : DownWord) : (s.sendWord p w).holder = s.holder := by
  unfold sendWord; split <;> rfl
@[simp] theorem sendWord_claimTimer (s : State) (p : Port) (w : DownWord) : (s.sendWord p w).claimTimer = s.claimTimer := by
  unfold sendWord; split <;> rfl
@[simp] theorem sendWord_claimTimeout (s : State) (p : Port) (w : DownWord) : (s.sendWord p w).claimTimeout = s.claimTimeout := by
  unfold sendWord; split <;> rfl
@[simp] theorem sendWord_viewA (s : State) (p : Port) (w : DownWord) : (s.sendWord p w).viewA = s.viewA := by
  unfold sendWord; split <;> rfl
@[simp] theorem sendWord_viewB (s : State) (p : Port) (w : DownWord) : (s.sendWord p w).viewB = s.viewB := by
  unfold sendWord; split <;> rfl
@[simp] theorem sendWord_capture (s : State) (p : Port) (w : DownWord) : (s.sendWord p w).capture = s.capture := by
  unfold sendWord; split <;> rfl
@[simp] theorem sendWord_moreFaults (s : State) (p : Port) (w : DownWord) : (s.sendWord p w).moreFaults = s.moreFaults := by
  unfold sendWord; split <;> rfl
@[simp] theorem sendWord_meters (s : State) (p : Port) (w : DownWord) : (s.sendWord p w).meters = s.meters := by
  unfold sendWord; split <;> rfl
@[simp] theorem sendWord_plane (s : State) (p : Port) (w : DownWord) : (s.sendWord p w).plane = s.plane := by
  unfold sendWord; split <;> rfl
@[simp] theorem sendWord_startCause (s : State) (p : Port) (w : DownWord) : (s.sendWord p w).startCause = s.startCause := by
  unfold sendWord; split <;> rfl
@[simp] theorem sendWord_held (s : State) (p : Port) (w : DownWord) : (s.sendWord p w).held = s.held := by
  unfold sendWord; split <;> rfl
@[simp] theorem sendWord_now (s : State) (p : Port) (w : DownWord) : (s.sendWord p w).now = s.now := by
  unfold sendWord; split <;> rfl
@[simp] theorem sendWord_out (s : State) (p : Port) (w : DownWord) : (s.sendWord p w).out = s.out := by
  unfold sendWord; split <;> rfl
@[simp] theorem sendWord_freeCount (s : State) (p : Port) (w : DownWord) : (s.sendWord p w).freeCount = s.freeCount := by
  unfold sendWord; split <;> rfl
@[simp] theorem sendWord_pending (s : State) (p : Port) (w : DownWord) : (s.sendWord p w).pending = s.pending := by
  unfold sendWord; split <;> rfl
theorem sendWord_transmit (s : State) (p : Port) (w : DownWord) :
    (s.sendWord p w).transmit =
      if s.isUp p then s.transmit.upd p fun t => { t with words := t.words ++ [w] } else s.transmit := by
  unfold sendWord; split <;> rfl

/-! ### setView -/

@[simp] theorem setView_links (s : State) (l : MgmtLink) (v : EventView) : (s.setView l v).links = s.links := by
  cases l <;> rfl
@[simp] theorem setView_intakes (s : State) (l : MgmtLink) (v : EventView) : (s.setView l v).intakes = s.intakes := by
  cases l <;> rfl
@[simp] theorem setView_matrix (s : State) (l : MgmtLink) (v : EventView) : (s.setView l v).matrix = s.matrix := by
  cases l <;> rfl
@[simp] theorem setView_absorbPtr (s : State) (l : MgmtLink) (v : EventView) : (s.setView l v).absorbPtr = s.absorbPtr := by
  cases l <;> rfl
@[simp] theorem setView_portMap (s : State) (l : MgmtLink) (v : EventView) : (s.setView l v).portMap = s.portMap := by
  cases l <;> rfl
@[simp] theorem setView_staging (s : State) (l : MgmtLink) (v : EventView) : (s.setView l v).staging = s.staging := by
  cases l <;> rfl
@[simp] theorem setView_tablesReady (s : State) (l : MgmtLink) (v : EventView) : (s.setView l v).tablesReady = s.tablesReady := by
  cases l <;> rfl
@[simp] theorem setView_tableInit (s : State) (l : MgmtLink) (v : EventView) : (s.setView l v).tableInit = s.tableInit := by
  cases l <;> rfl
@[simp] theorem setView_arbiters (s : State) (l : MgmtLink) (v : EventView) : (s.setView l v).arbiters = s.arbiters := by
  cases l <;> rfl
@[simp] theorem setView_grantLists (s : State) (l : MgmtLink) (v : EventView) : (s.setView l v).grantLists = s.grantLists := by
  cases l <;> rfl
@[simp] theorem setView_grantWindow (s : State) (l : MgmtLink) (v : EventView) : (s.setView l v).grantWindow = s.grantWindow := by
  cases l <;> rfl
@[simp] theorem setView_transmit (s : State) (l : MgmtLink) (v : EventView) : (s.setView l v).transmit = s.transmit := by
  cases l <;> rfl
@[simp] theorem setView_groups (s : State) (l : MgmtLink) (v : EventView) : (s.setView l v).groups = s.groups := by
  cases l <;> rfl
@[simp] theorem setView_mcastQueues (s : State) (l : MgmtLink) (v : EventView) : (s.setView l v).mcastQueues = s.mcastQueues := by
  cases l <;> rfl
@[simp] theorem setView_allocPtr (s : State) (l : MgmtLink) (v : EventView) : (s.setView l v).allocPtr = s.allocPtr := by
  cases l <;> rfl
@[simp] theorem setView_slots (s : State) (l : MgmtLink) (v : EventView) : (s.setView l v).slots = s.slots := by
  cases l <;> rfl
@[simp] theorem setView_discardedA (s : State) (l : MgmtLink) (v : EventView) : (s.setView l v).discardedA = s.discardedA := by
  cases l <;> rfl
@[simp] theorem setView_discardedB (s : State) (l : MgmtLink) (v : EventView) : (s.setView l v).discardedB = s.discardedB := by
  cases l <;> rfl
@[simp] theorem setView_holder (s : State) (l : MgmtLink) (v : EventView) : (s.setView l v).holder = s.holder := by
  cases l <;> rfl
@[simp] theorem setView_claimTimer (s : State) (l : MgmtLink) (v : EventView) : (s.setView l v).claimTimer = s.claimTimer := by
  cases l <;> rfl
@[simp] theorem setView_claimTimeout (s : State) (l : MgmtLink) (v : EventView) : (s.setView l v).claimTimeout = s.claimTimeout := by
  cases l <;> rfl
@[simp] theorem setView_capture (s : State) (l : MgmtLink) (v : EventView) : (s.setView l v).capture = s.capture := by
  cases l <;> rfl
@[simp] theorem setView_moreFaults (s : State) (l : MgmtLink) (v : EventView) : (s.setView l v).moreFaults = s.moreFaults := by
  cases l <;> rfl
@[simp] theorem setView_meters (s : State) (l : MgmtLink) (v : EventView) : (s.setView l v).meters = s.meters := by
  cases l <;> rfl
@[simp] theorem setView_plane (s : State) (l : MgmtLink) (v : EventView) : (s.setView l v).plane = s.plane := by
  cases l <;> rfl
@[simp] theorem setView_startCause (s : State) (l : MgmtLink) (v : EventView) : (s.setView l v).startCause = s.startCause := by
  cases l <;> rfl
@[simp] theorem setView_held (s : State) (l : MgmtLink) (v : EventView) : (s.setView l v).held = s.held := by
  cases l <;> rfl
@[simp] theorem setView_now (s : State) (l : MgmtLink) (v : EventView) : (s.setView l v).now = s.now := by
  cases l <;> rfl
@[simp] theorem setView_out (s : State) (l : MgmtLink) (v : EventView) : (s.setView l v).out = s.out := by
  cases l <;> rfl
@[simp] theorem setView_freeCount (s : State) (l : MgmtLink) (v : EventView) : (s.setView l v).freeCount = s.freeCount := by
  cases l <;> rfl
@[simp] theorem setView_pending (s : State) (l : MgmtLink) (v : EventView) : (s.setView l v).pending = s.pending := by
  cases l <;> rfl
@[simp] theorem setView_view (s : State) (l : MgmtLink) (v : EventView) : (s.setView l v).view l = v := by
  cases l <;> rfl

/-! ### returnGrant and lapse: what they leave alone -/

@[simp] theorem returnGrant_links (s : State) (r : GrantRecord) : (s.returnGrant r).links = s.links := by
  unfold returnGrant; split <;> rfl
@[simp] theorem returnGrant_intakes (s : State) (r : GrantRecord) : (s.returnGrant r).intakes = s.intakes := by
  unfold returnGrant; split <;> rfl
@[simp] theorem returnGrant_matrix (s : State) (r : GrantRecord) : (s.returnGrant r).matrix = s.matrix := by
  unfold returnGrant; split <;> rfl
@[simp] theorem returnGrant_absorbPtr (s : State) (r : GrantRecord) : (s.returnGrant r).absorbPtr = s.absorbPtr := by
  unfold returnGrant; split <;> rfl
@[simp] theorem returnGrant_staging (s : State) (r : GrantRecord) : (s.returnGrant r).staging = s.staging := by
  unfold returnGrant; split <;> rfl
@[simp] theorem returnGrant_tablesReady (s : State) (r : GrantRecord) : (s.returnGrant r).tablesReady = s.tablesReady := by
  unfold returnGrant; split <;> rfl
@[simp] theorem returnGrant_tableInit (s : State) (r : GrantRecord) : (s.returnGrant r).tableInit = s.tableInit := by
  unfold returnGrant; split <;> rfl
@[simp] theorem returnGrant_grantLists (s : State) (r : GrantRecord) : (s.returnGrant r).grantLists = s.grantLists := by
  unfold returnGrant; split <;> rfl
@[simp] theorem returnGrant_grantWindow (s : State) (r : GrantRecord) : (s.returnGrant r).grantWindow = s.grantWindow := by
  unfold returnGrant; split <;> rfl
@[simp] theorem returnGrant_transmit (s : State) (r : GrantRecord) : (s.returnGrant r).transmit = s.transmit := by
  unfold returnGrant; split <;> rfl
@[simp] theorem returnGrant_groups (s : State) (r : GrantRecord) : (s.returnGrant r).groups = s.groups := by
  unfold returnGrant; split <;> rfl
@[simp] theorem returnGrant_mcastQueues (s : State) (r : GrantRecord) : (s.returnGrant r).mcastQueues = s.mcastQueues := by
  unfold returnGrant; split <;> rfl
@[simp] theorem returnGrant_allocPtr (s : State) (r : GrantRecord) : (s.returnGrant r).allocPtr = s.allocPtr := by
  unfold returnGrant; split <;> rfl
@[simp] theorem returnGrant_discardedA (s : State) (r : GrantRecord) : (s.returnGrant r).discardedA = s.discardedA := by
  unfold returnGrant; split <;> rfl
@[simp] theorem returnGrant_discardedB (s : State) (r : GrantRecord) : (s.returnGrant r).discardedB = s.discardedB := by
  unfold returnGrant; split <;> rfl
@[simp] theorem returnGrant_holder (s : State) (r : GrantRecord) : (s.returnGrant r).holder = s.holder := by
  unfold returnGrant; split <;> rfl
@[simp] theorem returnGrant_claimTimer (s : State) (r : GrantRecord) : (s.returnGrant r).claimTimer = s.claimTimer := by
  unfold returnGrant; split <;> rfl
@[simp] theorem returnGrant_claimTimeout (s : State) (r : GrantRecord) : (s.returnGrant r).claimTimeout = s.claimTimeout := by
  unfold returnGrant; split <;> rfl
@[simp] theorem returnGrant_viewA (s : State) (r : GrantRecord) : (s.returnGrant r).viewA = s.viewA := by
  unfold returnGrant; split <;> rfl
@[simp] theorem returnGrant_viewB (s : State) (r : GrantRecord) : (s.returnGrant r).viewB = s.viewB := by
  unfold returnGrant; split <;> rfl
@[simp] theorem returnGrant_capture (s : State) (r : GrantRecord) : (s.returnGrant r).capture = s.capture := by
  unfold returnGrant; split <;> rfl
@[simp] theorem returnGrant_moreFaults (s : State) (r : GrantRecord) : (s.returnGrant r).moreFaults = s.moreFaults := by
  unfold returnGrant; split <;> rfl
@[simp] theorem returnGrant_meters (s : State) (r : GrantRecord) : (s.returnGrant r).meters = s.meters := by
  unfold returnGrant; split <;> rfl
@[simp] theorem returnGrant_plane (s : State) (r : GrantRecord) : (s.returnGrant r).plane = s.plane := by
  unfold returnGrant; split <;> rfl
@[simp] theorem returnGrant_startCause (s : State) (r : GrantRecord) : (s.returnGrant r).startCause = s.startCause := by
  unfold returnGrant; split <;> rfl
@[simp] theorem returnGrant_held (s : State) (r : GrantRecord) : (s.returnGrant r).held = s.held := by
  unfold returnGrant; split <;> rfl
@[simp] theorem returnGrant_now (s : State) (r : GrantRecord) : (s.returnGrant r).now = s.now := by
  unfold returnGrant; split <;> rfl
@[simp] theorem returnGrant_out (s : State) (r : GrantRecord) : (s.returnGrant r).out = s.out := by
  unfold returnGrant; split <;> rfl
@[simp] theorem returnGrant_freeCount (s : State) (r : GrantRecord) : (s.returnGrant r).freeCount = s.freeCount := by
  unfold returnGrant; split <;> rfl
@[simp] theorem returnGrant_pending (s : State) (r : GrantRecord) : (s.returnGrant r).pending = s.pending := by
  unfold returnGrant; split <;> rfl

@[simp] theorem lapse_intakes (s : State) (i : Port) (r : GrantRecord) : (s.lapse i r).intakes = s.intakes := by
  simp [lapse]
@[simp] theorem lapse_matrix (s : State) (i : Port) (r : GrantRecord) : (s.lapse i r).matrix = s.matrix := by
  simp [lapse]
@[simp] theorem lapse_absorbPtr (s : State) (i : Port) (r : GrantRecord) : (s.lapse i r).absorbPtr = s.absorbPtr := by
  simp [lapse]
@[simp] theorem lapse_staging (s : State) (i : Port) (r : GrantRecord) : (s.lapse i r).staging = s.staging := by
  simp [lapse]
@[simp] theorem lapse_tablesReady (s : State) (i : Port) (r : GrantRecord) : (s.lapse i r).tablesReady = s.tablesReady := by
  simp [lapse]
@[simp] theorem lapse_tableInit (s : State) (i : Port) (r : GrantRecord) : (s.lapse i r).tableInit = s.tableInit := by
  simp [lapse]
@[simp] theorem lapse_grantWindow (s : State) (i : Port) (r : GrantRecord) : (s.lapse i r).grantWindow = s.grantWindow := by
  simp [lapse]
@[simp] theorem lapse_groups (s : State) (i : Port) (r : GrantRecord) : (s.lapse i r).groups = s.groups := by
  simp [lapse]
@[simp] theorem lapse_mcastQueues (s : State) (i : Port) (r : GrantRecord) : (s.lapse i r).mcastQueues = s.mcastQueues := by
  simp [lapse]
@[simp] theorem lapse_allocPtr (s : State) (i : Port) (r : GrantRecord) : (s.lapse i r).allocPtr = s.allocPtr := by
  simp [lapse]
@[simp] theorem lapse_discardedA (s : State) (i : Port) (r : GrantRecord) : (s.lapse i r).discardedA = s.discardedA := by
  simp [lapse]
@[simp] theorem lapse_discardedB (s : State) (i : Port) (r : GrantRecord) : (s.lapse i r).discardedB = s.discardedB := by
  simp [lapse]
@[simp] theorem lapse_holder (s : State) (i : Port) (r : GrantRecord) : (s.lapse i r).holder = s.holder := by
  simp [lapse]
@[simp] theorem lapse_claimTimer (s : State) (i : Port) (r : GrantRecord) : (s.lapse i r).claimTimer = s.claimTimer := by
  simp [lapse]
@[simp] theorem lapse_claimTimeout (s : State) (i : Port) (r : GrantRecord) : (s.lapse i r).claimTimeout = s.claimTimeout := by
  simp [lapse]
@[simp] theorem lapse_meters (s : State) (i : Port) (r : GrantRecord) : (s.lapse i r).meters = s.meters := by
  simp [lapse]
@[simp] theorem lapse_plane (s : State) (i : Port) (r : GrantRecord) : (s.lapse i r).plane = s.plane := by
  simp [lapse]
@[simp] theorem lapse_startCause (s : State) (i : Port) (r : GrantRecord) : (s.lapse i r).startCause = s.startCause := by
  simp [lapse]
@[simp] theorem lapse_held (s : State) (i : Port) (r : GrantRecord) : (s.lapse i r).held = s.held := by
  simp [lapse]
@[simp] theorem lapse_now (s : State) (i : Port) (r : GrantRecord) : (s.lapse i r).now = s.now := by
  simp [lapse]
@[simp] theorem lapse_out (s : State) (i : Port) (r : GrantRecord) : (s.lapse i r).out = s.out := by
  simp [lapse]
@[simp] theorem lapse_freeCount (s : State) (i : Port) (r : GrantRecord) : (s.lapse i r).freeCount = s.freeCount := by
  simp [lapse]
@[simp] theorem lapse_pending (s : State) (i : Port) (r : GrantRecord) : (s.lapse i r).pending = s.pending := by
  simp [lapse]

end Sys2Proof.Machine.State
end

