-- ==== Sys2Proof/Laws/Ops.lean ====
section
/-! SUPPORT. Laws/Ops.lean: what each shared operation can do, said once. -/

namespace Sys2Proof

namespace Bank

variable {n : Nat} {α : Type}

theorem upd_congr {b : Bank n α} {i : Fin n} {f g : α → α} (h : f (b.get i) = g (b.get i)) : b.upd i f = b.upd i g := by
  rw [upd, upd, h]

theorem set_eq_upd (b : Bank n α) (i : Fin n) (x : α) : b.set i x = b.upd i fun _ => x := rfl

@[simp] theorem upd_upd (b : Bank n α) (i : Fin n) (f g : α → α) : (b.upd i f).upd i g = b.upd i fun x => g (f x) := by
  ext j; simp only [get_upd]; split <;> rfl

@[simp] theorem set_set (b : Bank n α) (i : Fin n) (x y : α) : (b.set i x).set i y = b.set i y := by
  ext j; simp only [get_set]; split <;> rfl

@[simp] theorem upd_set (b : Bank n α) (i : Fin n) (f : α → α) (x : α) : (b.upd i f).set i x = b.set i x := by
  ext j; simp only [get_set, get_upd]; split <;> rfl

@[simp] theorem set_upd (b : Bank n α) (i : Fin n) (f : α → α) (x : α) : (b.set i x).upd i f = b.set i (f x) := by
  ext j; simp only [get_upd, get_set]; split <;> rfl

theorem upd_eq_self {b : Bank n α} {i : Fin n} {f : α → α} (h : f (b.get i) = b.get i) : b.upd i f = b := by
  rw [upd, h, set_get]

theorem tab_congr {f g : Fin n → α} (h : ∀ i, f i = g i) : (tab f : Bank n α) = tab g := by
  rw [funext h]

end Bank

/-- A search in cyclic order that finds `start + m` has passed over everything before it. -/
theorem find?_cyclic {n : Nat} [NeZero n] {start m : Fin n} {p : Fin n → Bool}
    (before : ∀ k, k < m → p (start + k) = false) (here : p (start + m) = true) :
    (cyclic start).find? p = some (start + m) := by
  have : (List.finRange n).find? (fun k => p (start + k)) = some m := by
    rw [List.find?_eq_some_iff_append]
    refine ⟨here, (List.finRange n).take m.val, (List.finRange n).drop (m.val + 1), ?_, ?_⟩
    · have hm : m.val < (List.finRange n).length := by simp
      conv_lhs => rw [← List.take_append_drop m.val (List.finRange n)]
      rw [List.drop_eq_getElem_cons hm]
      simp
    · intro a ha
      obtain ⟨k, hk, rfl⟩ := List.mem_take_iff_getElem.mp ha
      have : k < m.val := by simp at hk; omega
      simp only [List.getElem_finRange]
      rw [before _ (by simpa [Fin.lt_def] using this)]
      rfl
  rw [cyclic, List.find?_map]
  simp only [Function.comp_def, this, Option.map_some]

/-- The first hit of a search over all numbers below `n`. -/
theorem find?_finRange {n : Nat} {m : Fin n} {p : Fin n → Bool} (before : ∀ k, k < m → p k = false) (here : p m = true) :
    (List.finRange n).find? p = some m := by
  rw [List.find?_eq_some_iff_append]
  refine ⟨here, (List.finRange n).take m.val, (List.finRange n).drop (m.val + 1), ?_, ?_⟩
  · have hm : m.val < (List.finRange n).length := by simp
    conv_lhs => rw [← List.take_append_drop m.val (List.finRange n)]
    rw [List.drop_eq_getElem_cons hm]
    simp
  · intro a ha
    obtain ⟨k, hk, rfl⟩ := List.mem_take_iff_getElem.mp ha
    have : k < m.val := by simp at hk; omega
    simp only [List.getElem_finRange]
    rw [before _ (by simpa [Fin.lt_def] using this)]
    rfl

namespace Machine.State

/-! ### Offers of several faults -/

@[simp] theorem offerAll_links (s : State) (xs : List FaultRecord) : (s.offerAll xs).links = s.links := by
  induction xs generalizing s with
  | nil => rfl
  | cons x xs ih => exact (ih (s.offer x)).trans (offer_links s x)
@[simp] theorem offerAll_intakes (s : State) (xs : List FaultRecord) : (s.offerAll xs).intakes = s.intakes := by
  induction xs generalizing s with
  | nil => rfl
  | cons x xs ih => exact (ih (s.offer x)).trans (offer_intakes s x)
@[simp] theorem offerAll_matrix (s : State) (xs : List FaultRecord) : (s.offerAll xs).matrix = s.matrix := by
  induction xs generalizing s with
  | nil => rfl
  | cons x xs ih => exact (ih (s.offer x)).trans (offer_matrix s x)
@[simp] theorem offerAll_absorbPtr (s : State) (xs : List FaultRecord) : (s.offerAll xs).absorbPtr = s.absorbPtr := by
  induction xs generalizing s with
  | nil => rfl
  | cons x xs ih => exact (ih (s.offer x)).trans (offer_absorbPtr s x)
@[simp] theorem offerAll_portMap (s : State) (xs : List FaultRecord) : (s.offerAll xs).portMap = s.portMap := by
  induction xs generalizing s with
  | nil => rfl
  | cons x xs ih => exact (ih (s.offer x)).trans (offer_portMap s x)
@[simp] theorem offerAll_staging (s : State) (xs : List FaultRecord) : (s.offerAll xs).staging = s.staging := by
  induction xs generalizing s with
  | nil => rfl
  | cons x xs ih => exact (ih (s.offer x)).trans (offer_staging s x)
@[simp] theorem offerAll_tablesReady (s : State) (xs : List FaultRecord) : (s.offerAll xs).tablesReady = s.tablesReady := by
  induction xs generalizing s with
  | nil => rfl
  | cons x xs ih => exact (ih (s.offer x)).trans (offer_tablesReady s x)
@[simp] theorem offerAll_tableInit (s : State) (xs : List FaultRecord) : (s.offerAll xs).tableInit = s.tableInit := by
  induction xs generalizing s with
  | nil => rfl
  | cons x xs ih => exact (ih (s.offer x)).trans (offer_tableInit s x)
@[simp] theorem offerAll_arbiters (s : State) (xs : List FaultRecord) : (s.offerAll xs).arbiters = s.arbiters := by
  induction xs generalizing s with
  | nil => rfl
  | cons x xs ih => exact (ih (s.offer x)).trans (offer_arbiters s x)
@[simp] theorem offerAll_grantLists (s : State) (xs : List FaultRecord) : (s.offerAll xs).grantLists = s.grantLists := by
  induction xs generalizing s with
  | nil => rfl
  | cons x xs ih => exact (ih (s.offer x)).trans (offer_grantLists s x)
@[simp] theorem offerAll_grantWindow (s : State) (xs : List FaultRecord) : (s.offerAll xs).grantWindow = s.grantWindow := by
  induction xs generalizing s with
  | nil => rfl
  | cons x xs ih => exact (ih (s.offer x)).trans (offer_grantWindow s x)
@[simp] theorem offerAll_transmit (s : State) (xs : List FaultRecord) : (s.offerAll xs).transmit = s.transmit := by
  induction xs generalizing s with
  | nil => rfl
  | cons x xs ih => exact (ih (s.offer x)).trans (offer_transmit s x)
@[simp] theorem offerAll_groups (s : State) (xs : List FaultRecord) : (s.offerAll xs).groups = s.groups := by
  induction xs generalizing s with
  | nil => rfl
  | cons x xs ih => exact (ih (s.offer x)).trans (offer_groups s x)
@[simp] theorem offerAll_mcastQueues (s : State) (xs : List FaultRecord) : (s.offerAll xs).mcastQueues = s.mcastQueues := by
  induction xs generalizing s with
  | nil => rfl
  | cons x xs ih => exact (ih (s.offer x)).trans (offer_mcastQueues s x)
@[simp] theorem offerAll_allocPtr (s : State) (xs : List FaultRecord) : (s.offerAll xs).allocPtr = s.allocPtr := by
  induction xs generalizing s with
  | nil => rfl
  | cons x xs ih => exact (ih (s.offer x)).trans (offer_allocPtr s x)
@[simp] theorem offerAll_slots (s : State) (xs : List FaultRecord) : (s.offerAll xs).slots = s.slots := by
  induction xs generalizing s with
  | nil => rfl
  | cons x xs ih => exact (ih (s.offer x)).trans (offer_slots s x)
@[simp] theorem offerAll_discardedA (s : State) (xs : List FaultRecord) : (s.offerAll xs).discardedA = s.discardedA := by
  induction xs generalizing s with
  | nil => rfl
  | cons x xs ih => exact (ih (s.offer x)).trans (offer_discardedA s x)
@[simp] theorem offerAll_discardedB (s : State) (xs : List FaultRecord) : (s.offerAll xs).discardedB = s.discardedB := by
  induction xs generalizing s with
  | nil => rfl
  | cons x xs ih => exact (ih (s.offer x)).trans (offer_discardedB s x)
@[simp] theorem offerAll_holder (s : State) (xs : List FaultRecord) : (s.offerAll xs).holder = s.holder := by
  induction xs generalizing s with
  | nil => rfl
  | cons x xs ih => exact (ih (s.offer x)).trans (offer_holder s x)
@[simp] theorem offerAll_claimTimer (s : State) (xs : List FaultRecord) : (s.offerAll xs).claimTimer = s.claimTimer := by
  induction xs generalizing s with
  | nil => rfl
  | cons x xs ih => exact (ih (s.offer x)).trans (offer_claimTimer s x)
@[simp] theorem offerAll_claimTimeout (s : State) (xs : List FaultRecord) : (s.offerAll xs).claimTimeout = s.claimTimeout := by
  induction xs generalizing s with
  | nil => rfl
  | cons x xs ih => exact (ih (s.offer x)).trans (offer_claimTimeout s x)
@[simp] theorem offerAll_meters (s : State) (xs : List FaultRecord) : (s.offerAll xs).meters = s.meters := by
  induction xs generalizing s with
  | nil => rfl
  | cons x xs ih => exact (ih (s.offer x)).trans (offer_meters s x)
@[simp] theorem offerAll_plane (s : State) (xs : List FaultRecord) : (s.offerAll xs).plane = s.plane := by
  induction xs generalizing s with
  | nil => rfl
  | cons x xs ih => exact (ih (s.offer x)).trans (offer_plane s x)
@[simp] theorem offerAll_startCause (s : State) (xs : List FaultRecord) : (s.offerAll xs).startCause = s.startCause := by
  induction xs generalizing s with
  | nil => rfl
  | cons x xs ih => exact (ih (s.offer x)).trans (offer_startCause s x)
@[simp] theorem offerAll_held (s : State) (xs : List FaultRecord) : (s.offerAll xs).held = s.held := by
  induction xs generalizing s with
  | nil => rfl
  | cons x xs ih => exact (ih (s.offer x)).trans (offer_held s x)
@[simp] theorem offerAll_now (s : State) (xs : List FaultRecord) : (s.offerAll xs).now = s.now := by
  induction xs generalizing s with
  | nil => rfl
  | cons x xs ih => exact (ih (s.offer x)).trans (offer_now s x)
@[simp] theorem offerAll_out (s : State) (xs : List FaultRecord) : (s.offerAll xs).out = s.out := by
  induction xs generalizing s with
  | nil => rfl
  | cons x xs ih => exact (ih (s.offer x)).trans (offer_out s x)
@[simp] theorem offerAll_freeCount (s : State) (xs : List FaultRecord) : (s.offerAll xs).freeCount = s.freeCount := by
  induction xs generalizing s with
  | nil => rfl
  | cons x xs ih => exact (ih (s.offer x)).trans (offer_freeCount s x)
@[simp] theorem offerAll_pending (s : State) (xs : List FaultRecord) : (s.offerAll xs).pending = s.pending := by
  induction xs generalizing s with
  | nil => rfl
  | cons x xs ih => exact (ih (s.offer x)).trans (offer_pending s x)

@[simp] theorem offerGroups_links (s : State) (gs : List (List FaultRecord)) : (s.offerGroups gs).links = s.links := by
  unfold offerGroups; split <;> simp
@[simp] theorem offerGroups_intakes (s : State) (gs : List (List FaultRecord)) : (s.offerGroups gs).intakes = s.intakes := by
  unfold offerGroups; split <;> simp
@[simp] theorem offerGroups_matrix (s : State) (gs : List (List FaultRecord)) : (s.offerGroups gs).matrix = s.matrix := by
  unfold offerGroups; split <;> simp
@[simp] theorem offerGroups_absorbPtr (s : State) (gs : List (List FaultRecord)) : (s.offerGroups gs).absorbPtr = s.absorbPtr := by
  unfold offerGroups; split <;> simp
@[simp] theorem offerGroups_portMap (s : State) (gs : List (List FaultRecord)) : (s.offerGroups gs).portMap = s.portMap := by
  unfold offerGroups; split <;> simp
@[simp] theorem offerGroups_staging (s : State) (gs : List (List FaultRecord)) : (s.offerGroups gs).staging = s.staging := by
  unfold offerGroups; split <;> simp
@[simp] theorem offerGroups_tablesReady (s : State) (gs : List (List FaultRecord)) : (s.offerGroups gs).tablesReady = s.tablesReady := by
  unfold offerGroups; split <;> simp
@[simp] theorem offerGroups_tableInit (s : State) (gs : List (List FaultRecord)) : (s.offerGroups gs).tableInit = s.tableInit := by
  unfold offerGroups; split <;> simp
@[simp] theorem offerGroups_arbiters (s : State) (gs : List (List FaultRecord)) : (s.offerGroups gs).arbiters = s.arbiters := by
  unfold offerGroups; split <;> simp
@[simp] theorem offerGroups_grantLists (s : State) (gs : List (List FaultRecord)) : (s.offerGroups gs).grantLists = s.grantLists := by
  unfold offerGroups; split <;> simp
@[simp] theorem offerGroups_grantWindow (s : State) (gs : List (List FaultRecord)) : (s.offerGroups gs).grantWindow = s.grantWindow := by
  unfold offerGroups; split <;> simp
@[simp] theorem offerGroups_transmit (s : State) (gs : List (List FaultRecord)) : (s.offerGroups gs).transmit = s.transmit := by
  unfold offerGroups; split <;> simp
@[simp] theorem offerGroups_groups (s : State) (gs : List (List FaultRecord)) : (s.offerGroups gs).groups = s.groups := by
  unfold offerGroups; split <;> simp
@[simp] theorem offerGroups_mcastQueues (s : State) (gs : List (List FaultRecord)) : (s.offerGroups gs).mcastQueues = s.mcastQueues := by
  unfold offerGroups; split <;> simp
@[simp] theorem offerGroups_allocPtr (s : State) (gs : List (List FaultRecord)) : (s.offerGroups gs).allocPtr = s.allocPtr := by
  unfold offerGroups; split <;> simp
@[simp] theorem offerGroups_slots (s : State) (gs : List (List FaultRecord)) : (s.offerGroups gs).slots = s.slots := by
  unfold offerGroups; split <;> simp
@[simp] theorem offerGroups_discardedA (s : State) (gs : List (List FaultRecord)) : (s.offerGroups gs).discardedA = s.discardedA := by
  unfold offerGroups; split <;> simp
@[simp] theorem offerGroups_discardedB (s : State) (gs : List (List FaultRecord)) : (s.offerGroups gs).discardedB = s.discardedB := by
  unfold offerGroups; split <;> simp
@[simp] theorem offerGroups_holder (s : State) (gs : List (List FaultRecord)) : (s.offerGroups gs).holder = s.holder := by
  unfold offerGroups; split <;> simp
@[simp] theorem offerGroups_claimTimer (s : State) (gs : List (List FaultRecord)) : (s.offerGroups gs).claimTimer = s.claimTimer := by
  unfold offerGroups; split <;> simp
@[simp] theorem offerGroups_claimTimeout (s : State) (gs : List (List FaultRecord)) : (s.offerGroups gs).claimTimeout = s.claimTimeout := by
  unfold offerGroups; split <;> simp
@[simp] theorem offerGroups_meters (s : State) (gs : List (List FaultRecord)) : (s.offerGroups gs).meters = s.meters := by
  unfold offerGroups; split <;> simp
@[simp] theorem offerGroups_plane (s : State) (gs : List (List FaultRecord)) : (s.offerGroups gs).plane = s.plane := by
  unfold offerGroups; split <;> simp
@[simp] theorem offerGroups_startCause (s : State) (gs : List (List FaultRecord)) : (s.offerGroups gs).startCause = s.startCause := by
  unfold offerGroups; split <;> simp
@[simp] theorem offerGroups_held (s : State) (gs : List (List FaultRecord)) : (s.offerGroups gs).held = s.held := by
  unfold offerGroups; split <;> simp
@[simp] theorem offerGroups_now (s : State) (gs : List (List FaultRecord)) : (s.offerGroups gs).now = s.now := by
  unfold offerGroups; split <;> simp
@[simp] theorem offerGroups_out (s : State) (gs : List (List FaultRecord)) : (s.offerGroups gs).out = s.out := by
  unfold offerGroups; split <;> simp
@[simp] theorem offerGroups_pending (s : State) (gs : List (List FaultRecord)) : (s.offerGroups gs).pending = s.pending := by
  unfold offerGroups; split <;> simp

/-! ### Teardown and the events at which a port leaves UP (R147) -/

@[simp] theorem teardown_links (s : State) (j : Port) : (s.teardown j).links =
    Bank.tab fun i =>
      if i = j then { s.links.get i with bufferCount := 0 }
      else { s.links.get i with tallies := (s.links.get i).tallies.addLapsed (s.lapsing j i).length } := by
  unfold teardown; split <;> rfl
@[simp] theorem teardown_intakes (s : State) (j : Port) : (s.teardown j).intakes =
    s.intakes.set j Intake.idle := by
  unfold teardown; split <;> rfl
@[simp] theorem teardown_matrix (s : State) (j : Port) : (s.teardown j).matrix =
    s.matrix.set j Row.zero := by
  unfold teardown; split <;> rfl
@[simp] theorem teardown_absorbPtr (s : State) (j : Port) : (s.teardown j).absorbPtr = s.absorbPtr := by
  unfold teardown; split <;> rfl
@[simp] theorem teardown_portMap (s : State) (j : Port) : (s.teardown j).portMap =
    Bank.tab fun d => { s.portMap.get d with drain := (s.portMap.get d).drain - s.drainLoss j d } := by
  unfold teardown; split <;> rfl
@[simp] theorem teardown_staging (s : State) (j : Port) : (s.teardown j).staging = s.staging := by
  unfold teardown; split <;> rfl
@[simp] theorem teardown_tablesReady (s : State) (j : Port) : (s.teardown j).tablesReady = s.tablesReady := by
  unfold teardown; split <;> rfl
@[simp] theorem teardown_tableInit (s : State) (j : Port) : (s.teardown j).tableInit = s.tableInit := by
  unfold teardown; split <;> rfl
@[simp] theorem teardown_arbiters (s : State) (j : Port) : (s.teardown j).arbiters =
    Bank.tab fun k => s.tornArbiter j k := by
  unfold teardown; split <;> rfl
@[simp] theorem teardown_grantLists (s : State) (j : Port) : (s.teardown j).grantLists =
    Bank.tab fun i =>
      if i = j then GrantList.empty
      else { s.grantLists.get i with records := (s.records i).filter (fun r => !r.naming j) } := by
  unfold teardown; split <;> rfl
@[simp] theorem teardown_grantWindow (s : State) (j : Port) : (s.teardown j).grantWindow = s.grantWindow := by
  unfold teardown; split <;> rfl
@[simp] theorem teardown_transmit (s : State) (j : Port) : (s.teardown j).transmit =
    Bank.tab fun i => s.tornTransmit j i := by
  unfold teardown; split <;> rfl
@[simp] theorem teardown_groups (s : State) (j : Port) : (s.teardown j).groups = s.groups := by
  unfold teardown; split <;> rfl
@[simp] theorem teardown_mcastQueues (s : State) (j : Port) : (s.teardown j).mcastQueues =
    s.mcastQueues.set j [] := by
  unfold teardown; split <;> rfl
@[simp] theorem teardown_allocPtr (s : State) (j : Port) : (s.teardown j).allocPtr = s.allocPtr := by
  unfold teardown; split <;> rfl
@[simp] theorem teardown_slots (s : State) (j : Port) : (s.teardown j).slots =
    Bank.tab fun k => s.tornSlot j k := by
  unfold teardown; split <;> rfl
@[simp] theorem teardown_discardedA (s : State) (j : Port) : (s.teardown j).discardedA = s.discardedA := by
  unfold teardown; split <;> rfl
@[simp] theorem teardown_discardedB (s : State) (j : Port) : (s.teardown j).discardedB = s.discardedB := by
  unfold teardown; split <;> rfl
@[simp] theorem teardown_holder (s : State) (j : Port) : (s.teardown j).holder = s.holder := by
  unfold teardown; split <;> rfl
@[simp] theorem teardown_claimTimer (s : State) (j : Port) : (s.teardown j).claimTimer = s.claimTimer := by
  unfold teardown; split <;> rfl
@[simp] theorem teardown_claimTimeout (s : State) (j : Port) : (s.teardown j).claimTimeout = s.claimTimeout := by
  unfold teardown; split <;> rfl
@[simp] theorem teardown_capture (s : State) (j : Port) : (s.teardown j).capture = s.capture := by
  unfold teardown; split <;> rfl
@[simp] theorem teardown_moreFaults (s : State) (j : Port) : (s.teardown j).moreFaults = s.moreFaults := by
  unfold teardown; split <;> rfl
@[simp] theorem teardown_meters (s : State) (j : Port) : (s.teardown j).meters = s.meters := by
  unfold teardown; split <;> rfl
@[simp] theorem teardown_plane (s : State) (j : Port) : (s.teardown j).plane = s.plane := by
  unfold teardown; split <;> rfl
@[simp] theorem teardown_startCause (s : State) (j : Port) : (s.teardown j).startCause = s.startCause := by
  unfold teardown; split <;> rfl
@[simp] theorem teardown_held (s : State) (j : Port) : (s.teardown j).held = s.held := by
  unfold teardown; split <;> rfl
@[simp] theorem teardown_now (s : State) (j : Port) : (s.teardown j).now = s.now := by
  unfold teardown; split <;> rfl
@[simp] theorem teardown_out (s : State) (j : Port) : (s.teardown j).out = s.out := by
  unfold teardown; split <;> rfl
@[simp] theorem teardown_freeCount (s : State) (j : Port) : (s.teardown j).freeCount = s.freeCount := by
  unfold teardown; split <;> rfl
@[simp] theorem teardown_pending (s : State) (j : Port) : (s.teardown j).pending = s.pending := by
  unfold teardown; split <;> rfl

@[simp] theorem leaveUp_links (s : State) (p : Port) (f : LinkPort → LinkPort) :
    (s.leaveUp p f).links = (s.teardown p).links.upd p f := by
  simp only [leaveUp, offerGroups_links, raise_links, updLink_links]
@[simp] theorem leaveUp_intakes (s : State) (p : Port) (f : LinkPort → LinkPort) :
    (s.leaveUp p f).intakes = (s.teardown p).intakes := by
  simp only [leaveUp, offerGroups_intakes, raise_intakes, updLink_intakes]
@[simp] theorem leaveUp_matrix (s : State) (p : Port) (f : LinkPort → LinkPort) :
    (s.leaveUp p f).matrix = (s.teardown p).matrix := by
  simp only [leaveUp, offerGroups_matrix, raise_matrix, updLink_matrix]
@[simp] theorem leaveUp_absorbPtr (s : State) (p : Port) (f : LinkPort → LinkPort) :
    (s.leaveUp p f).absorbPtr = (s.teardown p).absorbPtr := by
  simp only [leaveUp, offerGroups_absorbPtr, raise_absorbPtr, updLink_absorbPtr]
@[simp] theorem leaveUp_portMap (s : State) (p : Port) (f : LinkPort → LinkPort) :
    (s.leaveUp p f).portMap = (s.teardown p).portMap := by
  simp only [leaveUp, offerGroups_portMap, raise_portMap, updLink_portMap]
@[simp] theorem leaveUp_staging (s : State) (p : Port) (f : LinkPort → LinkPort) :
    (s.leaveUp p f).staging = (s.teardown p).staging := by
  simp only [leaveUp, offerGroups_staging, raise_staging, updLink_staging]
@[simp] theorem leaveUp_tablesReady (s : State) (p : Port) (f : LinkPort → LinkPort) :
    (s.leaveUp p f).tablesReady = (s.teardown p).tablesReady := by
  simp only [leaveUp, offerGroups_tablesReady, raise_tablesReady, updLink_tablesReady]
@[simp] theorem leaveUp_tableInit (s : State) (p : Port) (f : LinkPort → LinkPort) :
    (s.leaveUp p f).tableInit = (s.teardown p).tableInit := by
  simp only [leaveUp, offerGroups_tableInit, raise_tableInit, updLink_tableInit]
@[simp] theorem leaveUp_arbiters (s : State) (p : Port) (f : LinkPort → LinkPort) :
    (s.leaveUp p f).arbiters = (s.teardown p).arbiters := by
  simp only [leaveUp, offerGroups_arbiters, raise_arbiters, updLink_arbiters]
@[simp] theorem leaveUp_grantLists (s : State) (p : Port) (f : LinkPort → LinkPort) :
    (s.leaveUp p f).grantLists = (s.teardown p).grantLists := by
  simp only [leaveUp, offerGroups_grantLists, raise_grantLists, updLink_grantLists]
@[simp] theorem leaveUp_grantWindow (s : State) (p : Port) (f : LinkPort → LinkPort) :
    (s.leaveUp p f).grantWindow = (s.teardown p).grantWindow := by
  simp only [leaveUp, offerGroups_grantWindow, raise_grantWindow, updLink_grantWindow]
@[simp] theorem leaveUp_transmit (s : State) (p : Port) (f : LinkPort → LinkPort) :
    (s.leaveUp p f).transmit = (s.teardown p).transmit := by
  simp only [leaveUp, offerGroups_transmit, raise_transmit, updLink_transmit]
@[simp] theorem leaveUp_groups (s : State) (p : Port) (f : LinkPort → LinkPort) :
    (s.leaveUp p f).groups = (s.teardown p).groups := by
  simp only [leaveUp, offerGroups_groups, raise_groups, updLink_groups]
@[simp] theorem leaveUp_mcastQueues (s : State) (p : Port) (f : LinkPort → LinkPort) :
    (s.leaveUp p f).mcastQueues = (s.teardown p).mcastQueues := by
  simp only [leaveUp, offerGroups_mcastQueues, raise_mcastQueues, updLink_mcastQueues]
@[simp] theorem leaveUp_allocPtr (s : State) (p : Port) (f : LinkPort → LinkPort) :
    (s.leaveUp p f).allocPtr = (s.teardown p).allocPtr := by
  simp only [leaveUp, offerGroups_allocPtr, raise_allocPtr, updLink_allocPtr]
@[simp] theorem leaveUp_slots (s : State) (p : Port) (f : LinkPort → LinkPort) :
    (s.leaveUp p f).slots = (s.teardown p).slots := by
  simp only [leaveUp, offerGroups_slots, raise_slots, updLink_slots]
@[simp] theorem leaveUp_discardedA (s : State) (p : Port) (f : LinkPort → LinkPort) :
    (s.leaveUp p f).discardedA = (s.teardown p).discardedA := by
  simp only [leaveUp, offerGroups_discardedA, raise_discardedA, updLink_discardedA]
@[simp] theorem leaveUp_discardedB (s : State) (p : Port) (f : LinkPort → LinkPort) :
    (s.leaveUp p f).discardedB = (s.teardown p).discardedB := by
  simp only [leaveUp, offerGroups_discardedB, raise_discardedB, updLink_discardedB]
@[simp] theorem leaveUp_holder (s : State) (p : Port) (f : LinkPort → LinkPort) :
    (s.leaveUp p f).holder = (s.teardown p).holder := by
  simp only [leaveUp, offerGroups_holder, raise_holder, updLink_holder]
@[simp] theorem leaveUp_claimTimer (s : State) (p : Port) (f : LinkPort → LinkPort) :
    (s.leaveUp p f).claimTimer = (s.teardown p).claimTimer := by
  simp only [leaveUp, offerGroups_claimTimer, raise_claimTimer, updLink_claimTimer]
@[simp] theorem leaveUp_claimTimeout (s : State) (p : Port) (f : LinkPort → LinkPort) :
    (s.leaveUp p f).claimTimeout = (s.teardown p).claimTimeout := by
  simp only [leaveUp, offerGroups_claimTimeout, raise_claimTimeout, updLink_claimTimeout]
@[simp] theorem leaveUp_meters (s : State) (p : Port) (f : LinkPort → LinkPort) :
    (s.leaveUp p f).meters = (s.teardown p).meters := by
  simp only [leaveUp, offerGroups_meters, raise_meters, updLink_meters]
@[simp] theorem leaveUp_plane (s : State) (p : Port) (f : LinkPort → LinkPort) :
    (s.leaveUp p f).plane = (s.teardown p).plane := by
  simp only [leaveUp, offerGroups_plane, raise_plane, updLink_plane]
@[simp] theorem leaveUp_startCause (s : State) (p : Port) (f : LinkPort → LinkPort) :
    (s.leaveUp p f).startCause = (s.teardown p).startCause := by
  simp only [leaveUp, offerGroups_startCause, raise_startCause, updLink_startCause]
@[simp] theorem leaveUp_held (s : State) (p : Port) (f : LinkPort → LinkPort) :
    (s.leaveUp p f).held = (s.teardown p).held := by
  simp only [leaveUp, offerGroups_held, raise_held, updLink_held]
@[simp] theorem leaveUp_now (s : State) (p : Port) (f : LinkPort → LinkPort) :
    (s.leaveUp p f).now = (s.teardown p).now := by
  simp only [leaveUp, offerGroups_now, raise_now, updLink_now]
@[simp] theorem leaveUp_out (s : State) (p : Port) (f : LinkPort → LinkPort) :
    (s.leaveUp p f).out = (s.teardown p).out := by
  simp only [leaveUp, offerGroups_out, raise_out, updLink_out]
@[simp] theorem leaveUp_pending (s : State) (p : Port) (f : LinkPort → LinkPort) :
    (s.leaveUp p f).pending = (s.teardown p).pending := by
  simp only [leaveUp, offerGroups_pending, raise_pending, updLink_pending]

/-! ### Arrivals (R142) -/

theorem receive_up {s : State} {p : Port} (h : s.link p = .up) (f g : State → State) :
    s.receive p f g = g (s.framed p) := by simp only [receive, h, framed]

theorem receive_exchange {s : State} {p : Port} (h : s.link p = .exchange) (f g : State → State) :
    s.receive p f g = f (s.framed p) := by simp only [receive, h, framed]

theorem receive_aligning {s : State} {p : Port} (h : s.link p = .aligning) (f g : State → State) :
    s.receive p f g = s.updLink p fun l => { l with goodMarks := 0 } := by simp only [receive, h]

theorem receive_shut {s : State} {p : Port} (h : s.link p = .off ∨ s.link p = .dark ∨ s.link p = .faulted)
    (f g : State → State) : s.receive p f g = s := by
  rcases h with h | h | h <;> simp only [receive, h]

@[simp] theorem link_framed (s : State) (p q : Port) : (s.framed p).link q = s.link q := by
  simp only [link, framed, updLink_links, Bank.get_upd]; split <;> rfl

theorem isUp_iff (s : State) (p : Port) : s.isUp p = true ↔ s.link p = .up := by simp [isUp]

theorem sendWord_up {s : State} {p : Port} (h : s.link p = .up) (w : DownWord) :
    s.sendWord p w = s.updTx p fun t => { t with words := t.words ++ [w] } := by
  simp [sendWord, isUp, h]

theorem sendWord_not_up {s : State} {p : Port} (h : s.link p ≠ .up) (w : DownWord) : s.sendWord p w = s := by
  simp [sendWord, isUp, h]

/-- Fill is a MARK, sent on an aligning, exchanging or idle UP link while the part is not held (R100, R143). -/
theorem fillWord_eq_some (s : State) (p : Port) (w : DownWord) :
    s.fillWord p = some w ↔ w = .mark ∧ s.held = none ∧
      (s.link p = .aligning ∨ s.link p = .exchange ∨
        s.link p = .up ∧ (s.transmit.get p).words = [] ∧ (s.transmit.get p).queue = [] ∧
          (s.transmit.get p).sending = false) := by
  have comm : DownWord.mark = w ↔ w = .mark := eq_comm
  unfold fillWord
  cases s.held <;> cases s.link p <;> simp [comm]
  cases (s.transmit.get p).sending <;> simp [and_comm]

theorem sendFill_eq (s : State) (p : Port) :
    s.sendFill p = if s.fillWord p = some .mark then s.emit (.word p .mark) else s := by
  unfold sendFill
  cases h : s.fillWord p with
  | none => simp
  | some w => simp [((fillWord_eq_some s p w).mp h).1]

theorem whenRunning_running {s : State} (h : s.held = none) (f : State → State) : whenRunning s f = .next (f s) := by
  simp [whenRunning, h]

theorem whenRunning_held {s : State} (h : s.held ≠ none) (f : State → State) : whenRunning s f = .next s := by
  cases hs : s.held with
  | none => exact absurd hs h
  | some _ => simp [whenRunning, hs]

theorem mutating_holder {s : State} {l : MgmtLink} (h : s.holder = some l) (code : Byte) (f : State → State) :
    s.mutating l code f = f s := by simp [mutating, h]

theorem mutating_other {s : State} {l : MgmtLink} (h : s.holder ≠ some l) (code : Byte) (f : State → State) :
    s.mutating l code f = s.respond l code .notSteering .none := by simp [mutating, h]

end Machine.State

end Sys2Proof
end

