-- ==== Sys2Proof/Laws/Grants.lean ====
section
/-! SUPPORT. Laws/Grants.lean: what placing, returning and lapsing a grant record does, field by field, and that a policy
chooses a candidate. -/

namespace Sys2Proof.Machine.State

/-! ### The lapse of one record (R76 to R79) -/

theorem lapse_grantLists (s : State) (i : Port) (r : GrantRecord) :
    (s.lapse i r).grantLists = s.grantLists.upd i fun g => g.remove r.tag := by
  simp [lapse]

theorem lapse_links (s : State) (i : Port) (r : GrantRecord) :
    (s.lapse i r).links = s.links.upd i fun l => { l with tallies := l.tallies.addLapsed 1 } := by
  simp [lapse]

@[simp] theorem link_lapse (s : State) (i p : Port) (r : GrantRecord) : (s.lapse i r).link p = s.link p := by
  simp only [link, lapse_links, Bank.get_upd]
  split <;> rfl

theorem lapse_arbiters (s : State) (i : Port) (r : GrantRecord) :
    (s.lapse i r).arbiters = (s.returnGrant r).arbiters := by
  simp only [lapse, sendWord_arbiters, offer_arbiters, raise_arbiters, updLink_arbiters]
  simp only [returnGrant]; split <;> rfl

theorem lapse_portMap (s : State) (i : Port) (r : GrantRecord) : (s.lapse i r).portMap = (s.returnGrant r).portMap := by
  simp only [lapse, sendWord_portMap, offer_portMap, raise_portMap, updLink_portMap]
  simp only [returnGrant]; split <;> rfl

theorem lapse_slots (s : State) (i : Port) (r : GrantRecord) : (s.lapse i r).slots = (s.returnGrant r).slots := by
  simp only [lapse, sendWord_slots, offer_slots, raise_slots, updLink_slots]
  simp only [returnGrant]; split <;> rfl

theorem lapse_transmit (s : State) (i : Port) (r : GrantRecord) :
    (s.lapse i r).transmit =
      if s.isUp i then s.transmit.upd i fun t => { t with words := t.words ++ [lapsedWord r] } else s.transmit := by
  have h : ∀ t : State, t.link i = s.link i → t.isUp i = s.isUp i := fun t ht => by simp only [isUp, ht]
  rw [lapse, sendWord_transmit, h]
  · simp only [offer_transmit, raise_transmit, updLink_transmit, returnGrant_transmit, updGrants_transmit]
  · simp only [link, offer_links, raise_links, updLink_links, returnGrant_links, updGrants_links, Bank.get_upd_self]

theorem lapse_view (s : State) (i : Port) (r : GrantRecord) (l : MgmtLink) :
    (s.lapse i r).view l = ((s.raise .grantLapsed).offer (lapseFault i r)).view l := by
  simp only [lapse]
  cases l <;>
    simp only [view, sendWord_viewA, sendWord_viewB, offer, raise_capture, updLink_capture, returnGrant_capture,
      updGrants_capture] <;>
    split <;> simp

@[simp] theorem lapse_capture (s : State) (i : Port) (r : GrantRecord) :
    (s.lapse i r).capture = some (s.capture.getD (lapseFault i r)) := by
  simp [lapse]

@[simp] theorem lapse_moreFaults (s : State) (i : Port) (r : GrantRecord) :
    (s.lapse i r).moreFaults = (s.moreFaults || s.capture.isSome) := by
  simp [lapse]

/-- The records of a list after one with a tag that none before it carries has left. -/
theorem eraseP_tag {earlier later : List GrantRecord} {r : GrantRecord} {t : Tag} (before : ∀ e ∈ earlier, e.tag ≠ t)
    (here : r.tag = t) : (earlier ++ r :: later).eraseP (fun r => r.tag = t) = earlier ++ later := by
  rw [List.eraseP_append_right _ (by simpa using before)]
  simp [here]

/-! ### Placing a record (R73) -/

/-- A record placed with a tag that no older record carries. -/
theorem placeRecord_fresh {s : State} {i : Port} {c : Cls} {target : GrantTarget} (up : s.link i = .up)
    (fresh : ∀ r ∈ s.records i, r.tag ≠ (s.grantLists.get i).nextTag) :
    s.placeRecord i target c =
      { s with
        grantLists := s.grantLists.upd i fun g =>
          { records := g.records ++ [⟨g.nextTag, c, target, s.grantWindow.time.map (s.now + ·)⟩]
            nextTag := g.nextTag + 1 }
        transmit := s.transmit.upd i fun t =>
          { t with words := t.words ++ [.grant (s.grantLists.get i).nextTag c target.item] } } := by
  unfold placeRecord
  have : (s.records i).find? (fun r => r.tag = (s.grantLists.get i).nextTag) = none := by simpa using fresh
  simp only [this]
  rw [sendWord_up (by simpa [link] using up)]
  simp only [updTx, updGrants]
  congr 1

/-- A record placed with the tag of an older record, which lapses first. -/
theorem placeRecord_reuse {s : State} {i : Port} {c : Cls} {target : GrantTarget} {old : GrantRecord}
    (up : s.link i = .up) (found : (s.records i).find? (fun r => r.tag = (s.grantLists.get i).nextTag) = some old) :
    s.placeRecord i target c =
      ((s.lapse i old).updGrants i fun g =>
        { records := g.records ++
            [⟨(s.grantLists.get i).nextTag, c, target, s.grantWindow.time.map (s.now + ·)⟩]
          nextTag := (s.grantLists.get i).nextTag + 1 }).updTx i fun t =>
            { t with words := t.words ++ [.grant (s.grantLists.get i).nextTag c target.item] } := by
  simp only [placeRecord, found]
  rw [sendWord_up]
  exact (link_lapse s i i old).trans up

/-! ### The choice of a policy (R52 to R55) -/

theorem policyChoice_isCandidate {s : State} {j : Port} {x : Candidate} (chosen : s.policyChoice j = some x) :
    s.isCandidate j x.ingress x.dest x.cls = true := by
  have dest : ∀ i c, s.lowestDest j i c = some x → s.isCandidate j x.ingress x.dest x.cls = true := by
    intro i c h
    simp only [lowestDest, Option.map_eq_some_iff] at h
    obtain ⟨d, found, rfl⟩ := h
    have := List.find?_some found
    exact this
  have cls : ∀ i, s.lowestClass j i = some x → s.isCandidate j x.ingress x.dest x.cls = true := fun i h => by
    obtain ⟨c, _, h⟩ := List.exists_of_findSome?_eq_some h
    exact dest _ _ h
  simp only [policyChoice] at chosen
  split at chosen <;>
    first
    | (obtain ⟨i, _, h⟩ := List.exists_of_findSome?_eq_some chosen; exact cls _ h)
    | (obtain ⟨c, _, h⟩ := List.exists_of_findSome?_eq_some chosen
       obtain ⟨i, _, h⟩ := List.exists_of_findSome?_eq_some h; exact dest _ _ h)
    | exact cls _ chosen

end Sys2Proof.Machine.State
end

