-- ==== Sys2Proof/Laws/Lapses.lean ====
section
/-! SUPPORT. Laws/Lapses.lean: the lapse of several records of one list at one event, in list order (R81, step 1). -/

namespace Sys2Proof.Machine.State

/-- The records `rs` of the list of ingress `i` lapse, in order. -/
def lapseAll (s : State) (i : Port) (rs : List GrantRecord) : State := rs.foldl (fun s r => s.lapse i r) s

@[simp] theorem lapseAll_nil (s : State) (i : Port) : s.lapseAll i [] = s := rfl

@[simp] theorem lapseAll_cons (s : State) (i : Port) (r : GrantRecord) (rs : List GrantRecord) :
    s.lapseAll i (r :: rs) = (s.lapse i r).lapseAll i rs := rfl

@[simp] theorem link_lapseAll (s : State) (i p : Port) (rs : List GrantRecord) :
    (s.lapseAll i rs).link p = s.link p := by
  induction rs generalizing s with
  | nil => rfl
  | cons r rs ih => rw [lapseAll_cons, ih, link_lapse]

/-- The first records of a list lapse: the rest of the list stays. -/
theorem lapseAll_grantLists (s : State) (i : Port) (rs rest : List GrantRecord) (h : s.records i = rs ++ rest) :
    (s.lapseAll i rs).grantLists = s.grantLists.upd i fun g => { g with records := rest } := by
  induction rs generalizing s with
  | nil =>
    rw [lapseAll_nil]
    exact (Bank.upd_eq_self (by simp only [records, List.nil_append] at h; rw [← h])).symm
  | cons r rs ih =>
    have h' : (s.grantLists.get i).records = r :: rs ++ rest := h
    rw [lapseAll_cons, ih]
    · rw [lapse_grantLists, Bank.upd_upd]; rfl
    · simp only [records, lapse_grantLists, Bank.get_upd_self, GrantList.remove, h', List.cons_append]
      simp

theorem addLapsed_zero {t : Tallies} (h : t.lapsed ≤ tallyLimit) : t.addLapsed 0 = t := by
  simp [Tallies.addLapsed, raiseTo, Nat.min_eq_right h]

theorem addLapsed_addLapsed (t : Tallies) (a b : Nat) : (t.addLapsed a).addLapsed b = t.addLapsed (a + b) := by
  simp only [Tallies.addLapsed, raiseTo]; congr 1; omega

theorem lapseAll_links (s : State) (i : Port) (rs : List GrantRecord)
    (h : (s.links.get i).tallies.lapsed ≤ tallyLimit) :
    (s.lapseAll i rs).links = s.links.upd i fun l => { l with tallies := l.tallies.addLapsed rs.length } := by
  induction rs generalizing s with
  | nil =>
    rw [lapseAll_nil]
    exact (Bank.upd_eq_self (by rw [List.length_nil, addLapsed_zero h])).symm
  | cons r rs ih =>
    rw [lapseAll_cons, ih]
    · simp only [lapse_links, Bank.upd_upd, addLapsed_addLapsed, List.length_cons, Nat.add_comm]
    · simp only [lapse_links, Bank.get_upd_self, Tallies.addLapsed]; exact raiseTo_le _ _ _

theorem lapseAll_transmit (s : State) (i : Port) (rs : List GrantRecord) (h : s.link i = .up) :
    (s.lapseAll i rs).transmit = s.transmit.upd i fun t => { t with words := t.words ++ rs.map lapsedWord } := by
  induction rs generalizing s with
  | nil => exact (Bank.upd_eq_self (by simp)).symm
  | cons r rs ih =>
    rw [lapseAll_cons, ih _ (by rw [link_lapse, h]), lapse_transmit, if_pos ((isUp_iff s i).mpr h)]
    simp

theorem returnGrant_arbiter (s : State) (r : GrantRecord) (k : Port) :
    (s.returnGrant r).arbiters.get k =
      if r.naming k then (s.arbiters.get k).giveBack (s.links.get k).bufferCount else s.arbiters.get k := by
  unfold returnGrant GrantRecord.naming
  split
  · next d j _ =>
    simp only [updEntry_arbiters, updArb_arbiters, Bank.get_upd, decide_eq_true_eq]
    split
    · next h => rw [h]
    · rfl
  · simp

theorem returnGrant_entry (s : State) (r : GrantRecord) (d : Dest) :
    (s.returnGrant r).portMap.get d =
      if r.toward d then { s.portMap.get d with drain := (s.portMap.get d).drain - 1 } else s.portMap.get d := by
  unfold returnGrant GrantRecord.toward
  split
  · simp only [updEntry_portMap, updArb_portMap, Bank.get_upd, decide_eq_true_eq]
  · simp

theorem returnGrant_slot (s : State) (r : GrantRecord) (k : SlotNo) :
    (s.returnGrant r).slots.get k = if r.reserves k then (s.slots.get k).unreserve else s.slots.get k := by
  unfold returnGrant GrantRecord.reserves
  split
  · simp
  · simp only [updSlot_slots, Bank.get_upd, decide_eq_true_eq]

/-- Credit and places in flight given back by several lapses (R77): credit stops at the buffer count. -/
theorem lapseAll_arbiter (s : State) (i : Port) (rs : List GrantRecord) (k : Port) :
    (s.lapseAll i rs).arbiters.get k =
      { s.arbiters.get k with
        credit :=
          if rs.countP (·.naming k) = 0 then (s.arbiters.get k).credit
          else min (s.links.get k).bufferCount ((s.arbiters.get k).credit + rs.countP (·.naming k))
        inFlight := (s.arbiters.get k).inFlight - rs.countP (·.naming k) } := by
  induction rs generalizing s with
  | nil => simp
  | cons r rs ih =>
    have hb : ((s.lapse i r).links.get k).bufferCount = (s.links.get k).bufferCount := by
      rw [lapse_links, Bank.get_upd]; split <;> rfl
    rw [lapseAll_cons, ih, hb, lapse_arbiters, returnGrant_arbiter, List.countP_cons]
    cases hr : r.naming k
    · simp
    · simp only [Arbiter.giveBack, if_true]
      congr 1
      · split <;> split <;> omega
      · omega

theorem lapseAll_entry (s : State) (i : Port) (rs : List GrantRecord) (d : Dest) :
    (s.lapseAll i rs).portMap.get d =
      { s.portMap.get d with drain := (s.portMap.get d).drain - rs.countP (·.toward d) } := by
  induction rs generalizing s with
  | nil => simp
  | cons r rs ih =>
    rw [lapseAll_cons, ih, lapse_portMap, returnGrant_entry, List.countP_cons]
    cases hr : r.toward d
    · simp
    · simp only [if_true]; congr 1; omega

theorem unreserve_unreserve (x : Slot) : x.unreserve.unreserve = x.unreserve := by cases x <;> rfl

theorem lapseAll_slot (s : State) (i : Port) (rs : List GrantRecord) (k : SlotNo) :
    (s.lapseAll i rs).slots.get k = if rs.any (·.reserves k) then (s.slots.get k).unreserve else s.slots.get k := by
  induction rs generalizing s with
  | nil => simp
  | cons r rs ih =>
    rw [lapseAll_cons, ih, lapse_slots, returnGrant_slot]
    cases hr : r.reserves k <;> simp [hr, unreserve_unreserve]

/-! ### What lapses leave alone -/

@[simp] theorem lapseAll_intakes (s : State) (i : Port) (rs : List GrantRecord) : (s.lapseAll i rs).intakes = s.intakes := by
  induction rs generalizing s with
  | nil => rfl
  | cons r rs ih => exact (ih (s.lapse i r)).trans (lapse_intakes s i r)
@[simp] theorem lapseAll_matrix (s : State) (i : Port) (rs : List GrantRecord) : (s.lapseAll i rs).matrix = s.matrix := by
  induction rs generalizing s with
  | nil => rfl
  | cons r rs ih => exact (ih (s.lapse i r)).trans (lapse_matrix s i r)
@[simp] theorem lapseAll_absorbPtr (s : State) (i : Port) (rs : List GrantRecord) : (s.lapseAll i rs).absorbPtr = s.absorbPtr := by
  induction rs generalizing s with
  | nil => rfl
  | cons r rs ih => exact (ih (s.lapse i r)).trans (lapse_absorbPtr s i r)
@[simp] theorem lapseAll_staging (s : State) (i : Port) (rs : List GrantRecord) : (s.lapseAll i rs).staging = s.staging := by
  induction rs generalizing s with
  | nil => rfl
  | cons r rs ih => exact (ih (s.lapse i r)).trans (lapse_staging s i r)
@[simp] theorem lapseAll_tablesReady (s : State) (i : Port) (rs : List GrantRecord) : (s.lapseAll i rs).tablesReady = s.tablesReady := by
  induction rs generalizing s with
  | nil => rfl
  | cons r rs ih => exact (ih (s.lapse i r)).trans (lapse_tablesReady s i r)
@[simp] theorem lapseAll_tableInit (s : State) (i : Port) (rs : List GrantRecord) : (s.lapseAll i rs).tableInit = s.tableInit := by
  induction rs generalizing s with
  | nil => rfl
  | cons r rs ih => exact (ih (s.lapse i r)).trans (lapse_tableInit s i r)
@[simp] theorem lapseAll_grantWindow (s : State) (i : Port) (rs : List GrantRecord) : (s.lapseAll i rs).grantWindow = s.grantWindow := by
  induction rs generalizing s with
  | nil => rfl
  | cons r rs ih => exact (ih (s.lapse i r)).trans (lapse_grantWindow s i r)
@[simp] theorem lapseAll_groups (s : State) (i : Port) (rs : List GrantRecord) : (s.lapseAll i rs).groups = s.groups := by
  induction rs generalizing s with
  | nil => rfl
  | cons r rs ih => exact (ih (s.lapse i r)).trans (lapse_groups s i r)
@[simp] theorem lapseAll_mcastQueues (s : State) (i : Port) (rs : List GrantRecord) : (s.lapseAll i rs).mcastQueues = s.mcastQueues := by
  induction rs generalizing s with
  | nil => rfl
  | cons r rs ih => exact (ih (s.lapse i r)).trans (lapse_mcastQueues s i r)
@[simp] theorem lapseAll_allocPtr (s : State) (i : Port) (rs : List GrantRecord) : (s.lapseAll i rs).allocPtr = s.allocPtr := by
  induction rs generalizing s with
  | nil => rfl
  | cons r rs ih => exact (ih (s.lapse i r)).trans (lapse_allocPtr s i r)
@[simp] theorem lapseAll_discardedA (s : State) (i : Port) (rs : List GrantRecord) : (s.lapseAll i rs).discardedA = s.discardedA := by
  induction rs generalizing s with
  | nil => rfl
  | cons r rs ih => exact (ih (s.lapse i r)).trans (lapse_discardedA s i r)
@[simp] theorem lapseAll_discardedB (s : State) (i : Port) (rs : List GrantRecord) : (s.lapseAll i rs).discardedB = s.discardedB := by
  induction rs generalizing s with
  | nil => rfl
  | cons r rs ih => exact (ih (s.lapse i r)).trans (lapse_discardedB s i r)
@[simp] theorem lapseAll_holder (s : State) (i : Port) (rs : List GrantRecord) : (s.lapseAll i rs).holder = s.holder := by
  induction rs generalizing s with
  | nil => rfl
  | cons r rs ih => exact (ih (s.lapse i r)).trans (lapse_holder s i r)
@[simp] theorem lapseAll_claimTimer (s : State) (i : Port) (rs : List GrantRecord) : (s.lapseAll i rs).claimTimer = s.claimTimer := by
  induction rs generalizing s with
  | nil => rfl
  | cons r rs ih => exact (ih (s.lapse i r)).trans (lapse_claimTimer s i r)
@[simp] theorem lapseAll_claimTimeout (s : State) (i : Port) (rs : List GrantRecord) : (s.lapseAll i rs).claimTimeout = s.claimTimeout := by
  induction rs generalizing s with
  | nil => rfl
  | cons r rs ih => exact (ih (s.lapse i r)).trans (lapse_claimTimeout s i r)
@[simp] theorem lapseAll_meters (s : State) (i : Port) (rs : List GrantRecord) : (s.lapseAll i rs).meters = s.meters := by
  induction rs generalizing s with
  | nil => rfl
  | cons r rs ih => exact (ih (s.lapse i r)).trans (lapse_meters s i r)
@[simp] theorem lapseAll_plane (s : State) (i : Port) (rs : List GrantRecord) : (s.lapseAll i rs).plane = s.plane := by
  induction rs generalizing s with
  | nil => rfl
  | cons r rs ih => exact (ih (s.lapse i r)).trans (lapse_plane s i r)
@[simp] theorem lapseAll_startCause (s : State) (i : Port) (rs : List GrantRecord) : (s.lapseAll i rs).startCause = s.startCause := by
  induction rs generalizing s with
  | nil => rfl
  | cons r rs ih => exact (ih (s.lapse i r)).trans (lapse_startCause s i r)
@[simp] theorem lapseAll_held (s : State) (i : Port) (rs : List GrantRecord) : (s.lapseAll i rs).held = s.held := by
  induction rs generalizing s with
  | nil => rfl
  | cons r rs ih => exact (ih (s.lapse i r)).trans (lapse_held s i r)
@[simp] theorem lapseAll_now (s : State) (i : Port) (rs : List GrantRecord) : (s.lapseAll i rs).now = s.now := by
  induction rs generalizing s with
  | nil => rfl
  | cons r rs ih => exact (ih (s.lapse i r)).trans (lapse_now s i r)
@[simp] theorem lapseAll_out (s : State) (i : Port) (rs : List GrantRecord) : (s.lapseAll i rs).out = s.out := by
  induction rs generalizing s with
  | nil => rfl
  | cons r rs ih => exact (ih (s.lapse i r)).trans (lapse_out s i r)
@[simp] theorem lapseAll_freeCount (s : State) (i : Port) (rs : List GrantRecord) : (s.lapseAll i rs).freeCount = s.freeCount := by
  induction rs generalizing s with
  | nil => rfl
  | cons r rs ih => exact (ih (s.lapse i r)).trans (lapse_freeCount s i r)
@[simp] theorem lapseAll_pending (s : State) (i : Port) (rs : List GrantRecord) : (s.lapseAll i rs).pending = s.pending := by
  induction rs generalizing s with
  | nil => rfl
  | cons r rs ih => exact (ih (s.lapse i r)).trans (lapse_pending s i r)

/-- What a run of lapses may change: link ports, lists, transmit stages, arbiters, Port Map, slots and events. -/
theorem lapseAll_frame (s : State) (i : Port) (rs : List GrantRecord) :
    s.lapseAll i rs = { s with
      links := (s.lapseAll i rs).links, grantLists := (s.lapseAll i rs).grantLists
      transmit := (s.lapseAll i rs).transmit, arbiters := (s.lapseAll i rs).arbiters
      portMap := (s.lapseAll i rs).portMap, slots := (s.lapseAll i rs).slots, viewA := (s.lapseAll i rs).viewA
      viewB := (s.lapseAll i rs).viewB, capture := (s.lapseAll i rs).capture
      moreFaults := (s.lapseAll i rs).moreFaults } := by
  simp [State.ext_iff]

end Sys2Proof.Machine.State
end

