-- ==== Sys2Proof/Laws/Events.lean ====
section
/-! SUPPORT. Laws/Events.lean: the event views and the fault capture after raises, offers and lapses. -/

namespace Sys2Proof.Machine

theorem EventView.raise_raise (v : EventView) (k : EventKind) : (v.raise k).raise k = v.raise k := by
  simp [EventView.raise, BitVec.or_assoc]

theorem EventView.raise_comm (v : EventView) (k k' : EventKind) : (v.raise k).raise k' = (v.raise k').raise k := by
  simp only [EventView.raise, BitVec.or_assoc]
  rw [BitVec.or_comm k.only k'.only]

namespace State

theorem raise_view (s : State) (k : EventKind) (l : MgmtLink) : (s.raise k).view l = (s.view l).raise k := by
  cases l <;> rfl

theorem offer_view (s : State) (f : FaultRecord) (l : MgmtLink) :
    (s.offer f).view l = if s.capture = none then (s.view l).raise .faultCaptured else s.view l := by
  unfold offer
  split
  · next h => rw [raise_view]; cases l <;> simp [h, view]
  · next h => cases l <;> simp [h, view]

theorem offerAll_cons (s : State) (f : FaultRecord) (fs : List FaultRecord) :
    s.offerAll (f :: fs) = (s.offer f).offerAll fs := rfl

theorem offerAll_view (s : State) (fs : List FaultRecord) (l : MgmtLink) :
    (s.offerAll fs).view l = if s.capture = none ∧ fs ≠ [] then (s.view l).raise .faultCaptured else s.view l := by
  induction fs generalizing s with
  | nil => simp [offerAll]
  | cons f fs ih => rw [offerAll_cons, ih]; simp [offer_view]

theorem offerAll_capture (s : State) (fs : List FaultRecord) : (s.offerAll fs).capture = s.capture.or fs.head? := by
  induction fs generalizing s with
  | nil => simp [offerAll]
  | cons f fs ih => rw [offerAll_cons, ih]; cases hc : s.capture <;> simp [hc]

theorem offerAll_moreFaults (s : State) (fs : List FaultRecord) :
    (s.offerAll fs).moreFaults =
      (s.moreFaults || (s.capture.isSome && !fs.isEmpty) || decide (1 < fs.length)) := by
  induction fs generalizing s with
  | nil => simp [offerAll]
  | cons f fs ih => rw [offerAll_cons, ih]; cases hc : s.capture <;> cases fs <;> simp [hc]

/-- The events and offers of several lapses on one list (R79). -/
theorem lapseAll_events (s : State) (i : Port) (rs : List GrantRecord) :
    let t := (if rs = [] then s else s.raise .grantLapsed).offerAll (rs.map (lapseFault i))
    (∀ l, (s.lapseAll i rs).view l = t.view l) ∧ (s.lapseAll i rs).capture = t.capture ∧
      (s.lapseAll i rs).moreFaults = t.moreFaults := by
  induction rs generalizing s with
  | nil => simp [offerAll]
  | cons r rs ih =>
    obtain ⟨h1, h2, h3⟩ := ih (s.lapse i r)
    refine ⟨fun l => ?_, ?_, ?_⟩
    · rw [lapseAll_cons, h1, offerAll_view, offerAll_view]
      cases rs <;> cases hc : s.capture <;>
        simp [hc, lapse_view, offer_view, raise_view, EventView.raise_raise,
          EventView.raise_comm _ .faultCaptured .grantLapsed]
    · rw [lapseAll_cons, h2, offerAll_capture, offerAll_capture]
      cases rs <;> cases hc : s.capture <;> simp [hc]
    · rw [lapseAll_cons, h3, offerAll_moreFaults, offerAll_moreFaults]
      cases rs <;> cases hc : s.capture <;> simp [hc]

end State

end Sys2Proof.Machine
end

