-- ==== Sys2Proof/Laws/Formats.lean ====
section
/-! SUPPORT. Laws/Formats.lean: the kind, body and check of a word that was made, how a made word and the rest of a
damaged cell are read, numbers and fields in bytes, and the argument bytes of a command message. -/

namespace Sys2Proof.Machine

namespace Formats

@[simp] theorem wordKind_makeWord (k : BitVec 6) (b : BitVec 34) : wordKind (makeWord k b) = k := by
  rw [wordKind, makeWord, BitVec.extractLsb'_append_eq_of_le (by omega), BitVec.extractLsb'_append_eq_of_le (by omega)]
  simp

@[simp] theorem wordBody_makeWord (k : BitVec 6) (b : BitVec 34) : wordBody (makeWord k b) = b := by
  rw [wordBody, makeWord, BitVec.extractLsb'_append_eq_of_le (by omega), BitVec.extractLsb'_append_eq_of_add_le (by omega)]
  simp

@[simp] theorem wordCheck_makeWord (k : BitVec 6) (b : BitVec 34) :
    wordCheck (makeWord k b) = crc poly8 (bitsOf (k ++ b)) := by
  rw [wordCheck, makeWord, BitVec.extractLsb'_append_eq_of_add_le (by omega)]
  simp

/-- A word that was made has a good check. -/
@[simp] theorem wordCheckOf_makeWord (k : BitVec 6) (b : BitVec 34) :
    wordCheckOf (makeWord k b) = crc poly8 (bitsOf (k ++ b)) := by
  rw [wordCheckOf, wordKind_makeWord, wordBody_makeWord]

/-- A made word is read by its kind and body alone. -/
theorem readWord_makeWord (p : Port) (k : BitVec 6) (b : BitVec 34) :
    readWord p (makeWord k b) =
      match k.toNat with
      | 0 => .mark p
      | 1 => .hello p (b.extractLsb' 0 7).toFin
      | 2 => .request p (b.extractLsb' 28 6).toFin (b.extractLsb' 26 2).toFin (b.extractLsb' 22 4).toFin
      | 3 => .groupRequest p (b.extractLsb' 24 10).toFin (b.extractLsb' 22 2).toFin
      | 4 => .resync p
      | 5 => .credit p (b.extractLsb' 29 5).toFin
      | _ => .failedWord p := by
  simp only [readWord, wordCheckOf_makeWord, wordCheck_makeWord, wordKind_makeWord, wordBody_makeWord, ne_eq,
    not_true_eq_false, if_false] <;> rfl

theorem readWord_badCheck (p : Port) (w : BitVec 48) (h : wordCheck w ≠ wordCheckOf w) : readWord p w = .failedWord p :=
  if_pos h

/-- The positions of a damaged cell behind its first are failed words and framing failures by their frames alone (R186). -/
theorem readStream_damagedTail (p : Port) (frames : List Bool) (bits : List Bool)
    (enough : 48 * frames.length ≤ bits.length) :
    readStream p frames.length (frames.map fun f => (f, false)) bits =
      (frames.map fun f => if f then .failedWord p else .framingFailure p, 0, bits.drop (48 * frames.length)) := by
  induction frames generalizing bits with
  | nil => rfl
  | cons f fs ih =>
    simp only [List.length_cons] at enough
    simp only [List.map_cons, readStream, List.length_cons, readPosition]
    rw [if_neg (by omega), if_pos (by omega)]
    simp only [Nat.add_sub_cancel]
    rw [ih _ (by simp; omega)]
    simp [List.drop_drop]; omega

/-! ### Numbers and fields in bytes -/

theorem toNat_append_mul {n m : Nat} (x : BitVec n) (y : BitVec m) : (x ++ y).toNat = x.toNat * 2 ^ m + y.toNat := by
  rw [BitVec.toNat_append, Nat.shiftLeft_eq, Nat.mul_comm, Nat.two_pow_add_eq_or_of_lt y.isLt]

theorem u8_bigEndian (n : Nat) : u8 n = bigEndian 1 n := by simp [u8, bigEndian, List.range, List.range.loop]

theorem u16_bigEndian (n : Nat) : u16 n = bigEndian 2 n := by simp [u16, bigEndian, List.range, List.range.loop]

theorem u32_bigEndian (n : Nat) : u32 n = bigEndian 4 n := by
  simp [u32, u16, bigEndian, List.range, List.range.loop, Nat.div_div_eq_div_mul]

end Formats

theorem fieldBytes_nil : fieldBytes [] = [] := rfl

theorem fieldBytes_cons (f : Nat × Nat) (fs : List (Nat × Nat)) :
    fieldBytes (f :: fs) = bigEndian f.1 f.2 ++ fieldBytes fs := by simp [fieldBytes]

theorem fieldBytes_append (fs gs : List (Nat × Nat)) : fieldBytes (fs ++ gs) = fieldBytes fs ++ fieldBytes gs := by
  simp [fieldBytes]

theorem fieldBytes_map {α : Type} (xs : List α) (f : α → Nat × Nat) :
    fieldBytes (xs.map f) = xs.flatMap fun x => bigEndian (f x).1 (f x).2 := by simp [fieldBytes, List.flatMap_map]

theorem fieldBytes_flatMap {α : Type} (xs : List α) (f : α → List (Nat × Nat)) :
    fieldBytes (xs.flatMap f) = xs.flatMap fun x => fieldBytes (f x) := by simp [fieldBytes, List.flatMap_assoc]

/-! ### Argument bytes -/

theorem numArg_of_val {n v : Nat} {k : Fin n} (h : k.val = v) : numArg n v = some k := by
  subst h; simp [numArg]

theorem numArg_of_le {n v : Nat} (h : n ≤ v) : numArg n v = none := by
  simp [numArg]; omega

theorem kindsArg_of_toNat {w : BitVec 16} {ks : EventSet} (h : w.toNat = ks.toNat) : kindsArg w = some ks := by
  unfold kindsArg
  have := ks.isLt
  rw [if_pos (by omega)]
  congr 1
  apply BitVec.eq_of_toNat_eq
  simp [h]
  omega

theorem kindsArg_of_le {w : BitVec 16} (h : 8192 ≤ w.toNat) : kindsArg w = none := by
  unfold kindsArg; rw [if_neg]; omega

end Sys2Proof.Machine
end

