-- ==== Sys2Proof/Tests/Slice0.lean ====
section
/-! SUPPORT. Tests/Slice0.lean: ill-formed terms refused, words and messages written out from chapter 11, one worked
example for each command, and for each obligation with hypotheses a state and operands that meet them. -/

namespace Sys2Proof.Tests

open Sys2Proof.Machine

/-! ### Well-formedness -/

def cellOf (tag : Tag) (len : Fin 256) : UpCell := ⟨tag, true, false, len, 5, List.replicate 128 0xAB#8⟩

theorem test_wf_refuses_short_payload : (Instr.cell 0 { cellOf 7 2 with payload := [1] }).wf = false := by decide
theorem test_wf_refuses_long_payload :
    (Instr.cell 0 { cellOf 7 2 with payload := List.replicate 129 0 }).wf = false := by decide +kernel
theorem test_wf_refuses_uncountable_members :
    (Instr.writeGroup .a 2 1 0 (List.replicate 256 1)).wf = false := by decide +kernel
theorem test_wf_takes_the_bounds :
    (Instr.cell 0 (cellOf 7 2)).wf = true ∧ (Instr.writeGroup .a 2 1 0 (List.replicate 255 1)).wf = true := by decide +kernel

/-! ### Words, cells and messages, bit by bit -/

/-- The table gives no row any bits, so no word spells a command. -/
theorem test_table_word : decodeTableWord 8 0 = none ∧ State.reset.withFetchWord 8 0 = State.reset := ⟨rfl, rfl⟩

theorem test_upstream_words :
    Formats.readWord 3 0b000000_0000000000000000000000000000000000_00111001#48 = .mark 3 ∧
    Formats.readWord 3 0b000001_000000000000000000000000000_0001001_10001001#48 = .hello 3 9 ∧
    Formats.readWord 3 0b000010_000101_01_0011_0000000000000000000000_00001001#48 = .request 3 5 1 3 ∧
    Formats.readWord 3 0b000011_0000000010_00_0000000000000000000000_10000011#48 = .groupRequest 3 2 0 ∧
    Formats.readWord 3 0b000100_0000000000000000000000000000000000_00001011#48 = .resync 3 ∧
    Formats.readWord 3 0b000101_00100_00000000000000000000000000000_10110101#48 = .credit 3 4 := by decide +kernel

/-- A good check with an undefined kind, and a bad check, are failed words. -/
theorem test_failed_words :
    Formats.readWord 3 0b000110_0000000000000000000000000000000000_00010010#48 = .failedWord 3 ∧
    Formats.readWord 3 0b000010_000101_01_0010_0000000000000000000000_00001001#48 = .failedWord 3 := by decide +kernel

theorem test_downstream_words :
    Formats.downWord (.hello 5 3) = 0b100001_101_00011_00000000000000000000000000_00111100#48 ∧
    Formats.downWord (.grant 7 1 (.unicast 5)) = 0b100010_00000111_0_01_0000000101_0000000000000_00101011#48 ∧
    Formats.downWord (.refuse .ceiling (.request 5) 1 3) =
      0b100100_001_0_0000000101_01_0011_00000000000000_11001111#48 := by decide +kernel

set_option maxRecDepth 100000 in
theorem test_cell :
    Formats.readCell 3 0b010000_00000111_1_0_00000010_000000000000000000000101_0000000000000000#64
      ([0xAB, 0xCD] ++ List.replicate 126 0) 0x27F11770#32 =
        .cell 3 ⟨7, true, false, 2, 5, [0xAB, 0xCD] ++ List.replicate 126 0⟩ := by decide

/-- A damaged cell: its kind field reads 0, which with a good check would spell MARK, and no position of it is one. -/
theorem test_damaged_cell :
    Formats.readPosition 3 0 true true (Formats.bitsOf 0x000000000039#48) =
      some (.failedWord 3, 22, []) ∧
    Formats.readPosition 3 22 true false (Formats.bitsOf 0x000000000039#48) = some (.failedWord 3, 21, []) ∧
    Formats.readPosition 3 1 false false (Formats.bitsOf 0x000000000039#48) = some (.framingFailure 3, 0, []) ∧
    Formats.readPosition 3 0 true false (Formats.bitsOf 0x000000000039#48) = some (.mark 3, 0, []) := by decide +kernel

theorem test_command_messages :
    Formats.readBurst .b [0x00, 0x05, 0x01, 0x23, 0x48] = some (.identify .b) ∧
    Formats.readBurst .b [0x00, 0x08, 0x09, 0x05, 0x02, 0x01, 0x62, 0xF9, 0x77] = some (.stageMap .b 5 2 1) ∧
    Formats.readBurst .b [0x00, 0x05, 0x01, 0x23, 0x49] = some (.messageCheckFailure .b) ∧
    Formats.readBurst .b [0x00, 0x06, 0x01, 0x23, 0x48] = some (.messageCheckFailure .b) ∧
    Formats.readBurst .b [0x00, 0x07, 0x81, 0x00, 0x02, 0x03, 0x94] = some (.messageCheckFailure .b) := by decide +kernel

theorem test_response_message :
    Formats.responseMessage ⟨8, .done, .number 2⟩ =
      [0x00, 0x08, 0x08, 0x00, 0x00, 0x02] ++ Formats.messageCheck [0x00, 0x08, 0x08, 0x00, 0x00, 0x02] ∧
    Formats.dataCode (.capture none false) = [0xFF, 0xFF, 0xFF, 0xFF, 0xFF, 0xFF, 0xFF, 0x00] ∧
    Formats.dataCode (.map [⟨.void, 0⟩, ⟨.active 1, 258⟩]) = [0, 2, 0, 0xFF, 0, 0, 2, 1, 1, 2] := by decide +kernel

/-! ### Small states -/

/-- The state after a few commands. -/
def after : List Instr → State → State
  | [], s => s
  | c :: cs, s =>
    match exec c s with
    | .next t => after cs t
    | _ => s

def portIn (x : LinkState) : LinkPort := { LinkPort.reset true with link := x, enable := true }

def portUp (n : Nat) : LinkPort := { portIn .up with window := some 1000000, bufferCount := n }

/-- P0 and P1 UP with 8 and 9 cells of buffer, P2 in EXCHANGE, P3 in ALIGNING with a run of 15, P4 DARK, P5 FAULTED,
every other port OFF. D5 is ACTIVE on P1 and G2 holds D5. Link A holds steering. -/
def live : State :=
  { State.reset with
    tablesReady := true
    tableInit := none
    holder := some .a
    claimTimer := some 20000000
    links := Bank.tab fun p =>
      match p.val with
      | 0 => portUp 8
      | 1 => portUp 9
      | 2 => { portIn .exchange with exchangeTimer := some 1000000, window := some 1000000, retry := 6 }
      | 3 => { portIn .aligning with goodMarks := 15 }
      | 4 => { portIn .dark with presence := false }
      | 5 => { portIn .faulted with retry := 8 }
      | _ => LinkPort.reset false
    arbiters := Bank.tab fun j =>
      match j.val with
      | 0 => { Arbiter.reset with credit := 8 }
      | 1 => { Arbiter.reset with credit := 9 }
      | _ => Arbiter.reset
    portMap := (Bank.fill MapEntry.void).set 5 ⟨.active 1, 0⟩
    groups := (Bank.fill GroupEntry.invalid).set 2 ⟨true, [5], false⟩ }

/-- `live` with two more cells requested toward D5 and one multicast. -/
def asked : State := after [.request 0 5 1 2, .groupRequest 0 2 0, .absorption, .absorption] live

/-- `asked` with a unicast record (tag 0) and a multicast record (tag 1, slot 0) on P0's list. -/
def granted : State := after [.unicastGrantDecision 1 none, .allocatorDecision] asked

/-- `granted` with both cells arrived: one in P1's transmit queue, one copy in P1's delivery queue. -/
def loaded : State := after [.cell 0 (cellOf 0 2), .cell 0 (cellOf 1 3)] granted

/-- `loaded` with a multicast record (tag 2, slot 1) and a unicast record (tag 3) on P0's list again. -/
def mixed : State := after [.groupRequest 0 2 0, .absorption, .allocatorDecision, .unicastGrantDecision 1 none] loaded

/-- A state that meets every law, with a cell for the second record in front of the queue. -/
def busy : State := { mixed with pending := [.cell 0 (cellOf 3 3), .absorption] }

/-- `live` held in reset. -/
def heldLive : State := after [.resetLineAssert] live

/-- The responses among what has been sent. -/
def answers (s : State) : List (Status × ResponseData) :=
  s.out.filterMap fun o => match o with
    | .response _ r => some (r.status, r.data)
    | _ => none

/-! ### One worked example for each command -/

theorem test_power_on :
    let t := after [.powerOn 5 3 false] State.reset
    t.plane = 5 ∧ (t.links.get 1).presence = true ∧ (t.links.get 2).presence = false ∧ t.tableInit = some 4000 := by
  decide

theorem test_reset_line :
    heldLive.held = some .line ∧ heldLive.link 0 = .off ∧
    (after [.resetLineRelease 6] heldLive).plane = 6 ∧ (after [.resetLineRelease 6] heldLive).startCause = .line := by
  decide

theorem test_tables :
    let t := after [.tableInitialisationCompletion 4000] State.reset
    t.tablesReady = true ∧ t.now = 4000 ∧ t.viewA.flags = 0x400 := by decide

theorem test_presence :
    (after [.presenceChange 4 true] live).link 4 = .aligning ∧ (after [.presenceChange 0 false] live).link 0 = .dark := by
  decide

theorem test_sixteenth_mark :
    (after [.mark 3] live).link 3 = .exchange ∧ (after [.mark 3] live).out = [.word 3 (.hello 0 3)] := by decide

theorem test_fourth_framing_failure :
    (after (List.replicate 3 (.framingFailure 0)) live).link 0 = .up ∧
    (after (List.replicate 4 (.framingFailure 0)) live).link 0 = .aligning := by decide

theorem test_failed_word : ((after [.failedWord 0] live).links.get 0).windowCount = 1 := by decide

theorem test_hello :
    (after [.hello 2 7] live).link 2 = .exchange ∧ (after [.hello 2 127] live).link 2 = .up ∧
    ((after [.hello 2 127] live).arbiters.get 2).credit = 64 := by decide

theorem test_exchange_expiry :
    ((after [.exchangeTimerExpiry 2 1000000] live).links.get 2).exchangeTimer = some 2000000 ∧
    (after [.exchangeTimerExpiry 2 1000000, .exchangeTimerExpiry 2 2000000] live).link 2 = .faulted := by decide

theorem test_window_expiry :
    ((after [.failedWord 0, .checkErrorWindowExpiry 0 1000000] live).links.get 0).windowCount = 0 := by decide

theorem test_request_absorption : asked.count 0 5 1 = 2 ∧ asked.mcastQueues.get 0 = [⟨2, 0⟩] := by decide

theorem test_request_toward_void :
    ((after [.request 0 6 1 2, .absorption] live).transmit.get 0).words = [.refuse .noRoute (.request 6) 1 2] := by decide

theorem test_resync :
    (after [.resync 0] asked).count 0 5 1 = 0 ∧ ((after [.resync 0] asked).transmit.get 0).words = [.synced] := by decide

theorem test_grants :
    granted.count 0 5 1 = 1 ∧
    (granted.transmit.get 0).words = [.grant 0 1 (.unicast 5), .grant 1 0 (.multicast 2)] ∧
    granted.slots.get 0 = .reserved 0 2 0 := by decide

theorem test_credit :
    ((after [.credit 1 1] granted).arbiters.get 1).credit = 9 ∧ (after [.credit 1 2] granted).capture = some (.creditExcess 1) := by
  decide

theorem test_cells :
    (loaded.transmit.get 1).queue = [.unicast 0 1 5 ⟨true, false, 2, 5, [0xAB, 0xAB]⟩] ∧
    (loaded.arbiters.get 1).delivery = [0] := by decide

theorem test_skipped_record_lapses :
    ((after [.cell 0 (cellOf 1 3)] granted).transmit.get 0).words =
      [.grant 0 1 (.unicast 5), .grant 1 0 (.multicast 2), .lapsed 0 1 (.unicast 5)] := by decide

theorem test_grant_expiry : (after [.grantExpiry 0 1 800] granted).slots.get 0 = .free := by decide

/-- P1's turn of 3 is not reached, but no unicast candidate is left once the count is 0. -/
theorem test_delivery :
    ((after [.unicastGrantDecision 1 none, .deliveryDecision 1] loaded).transmit.get 1).queue.getLast? = some (.copy 0) := by
  decide

theorem test_transmission :
    let t := after [.transmissionStart 1, .transmitCompletion 1] loaded
    t.out = [.cellStart 1 ⟨0, 1, .unicast 5, ⟨true, false, 2, 5, [0xAB, 0xAB]⟩⟩, .cellEnd 1] ∧
    (t.portMap.get 5).drain = 0 ∧ (t.links.get 1).tallies.cellsOut = 1 := by decide

theorem test_control_word :
    (after [.controlWordTransmission 0] granted).out = [.word 0 (.grant 0 1 (.unicast 5))] := by decide

/-- MARK fills an idle UP link and a link in EXCHANGE; a waiting cell, a DARK link and a held part send none. -/
theorem test_fill :
    (after [.controlWordTransmission 0, .controlWordTransmission 2] live).out = [.word 0 .mark, .word 2 .mark] ∧
    (after [.controlWordTransmission 1] loaded).out = [] ∧ (after [.controlWordTransmission 4] live).out = [] ∧
    (after [.controlWordTransmission 2] heldLive).out = [] := by decide

theorem test_discarded_messages :
    (after [.messageCheckFailure .b] { live with discardedB := 65535 }).discardedB = 65535 ∧
    answers (after [.unknownCommand .a 99] live) = [(.badArgument, .none)] := by decide

theorem test_steering :
    answers (after [.claim .b, .refresh .a, .release .a, .claim .b, .refresh .b] live) =
      [(.held, .holder (some .a)), (.done, .refreshed .ms200), (.done, .number 0), (.done, .claimed (some .b) .ms200),
        (.done, .refreshed .ms200)] ∧
    (after [.claimTimerExpiry 20000000] live).holder = none ∧ (after [.claimTimerExpiry 5] live).holder = some .a := by
  decide

theorem test_set_timing : (after [.setTiming .a 4 0] live).grantWindow = .off ∧ (after [.setTiming .b 4 0] live).grantWindow = .us8 := by
  decide

theorem test_identify :
    answers (after [.identify .b] live) =
      [(.done, .identity ⟨1937, 3201, 1, 0, .power, true, some .a, .ms200, .us8, 0⟩)] := by decide

theorem test_set_port :
    answers (after [.setPort .a 6 1 1 0 0 3 64, .setPort .a 0 0 1 0 0 3 64, .setPort .a 0 1 1 0 0 16 64] live) =
      [(.done, .linkState .dark), (.done, .linkState .off), (.badArgument, .none)] := by decide

theorem test_read_port :
    ((after [.readPort .b 0] (live.updLink 0 fun l => { l with stickyA := true, stickyB := true })).links.get 0).stickyA = true ∧
    ((after [.readPort .b 0] (live.updLink 0 fun l => { l with stickyA := true, stickyB := true })).links.get 0).stickyB = false := by
  decide

theorem test_fabric_restart :
    answers (after [.fabricRestart .a] loaded) = [(.done, .number 3)] ∧ (after [.fabricRestart .a] loaded).link 0 = .exchange ∧
    (after [.fabricRestart .a] loaded).slots.get 0 = .free := by decide

theorem test_staging :
    answers (after [.stageMap .a 5 0 9, .stageMap .a 6 1 255, .readStaging .b, .discardStaging .a, .commitMap .a] live) =
      [(.done, .staged 1 1), (.badArgument, .none), (.done, .staging [⟨5, .void⟩] (some .a)), (.done, .number 1),
        (.empty, .none)] := by decide

theorem test_commit :
    answers (after [.stageMap .a 5 0 9, .commitMap .a] asked) = [(.done, .staged 1 1), (.done, .committed 1 1)] ∧
    ((after [.stageMap .a 5 0 9, .commitMap .a] asked).transmit.get 0).words = [.withdrawn 5] := by decide

theorem test_read_map :
    (answers (after [.readMap .a] live)).map Prod.fst = [.done] ∧
    answers (after [.readMap .a] State.reset) = [(.notReady, .none)] := by decide

theorem test_groups :
    answers (after [.writeGroup .a 3 1 0 [7, 5, 7], .readGroup .b 3] live) =
      [(.done, .number 2), (.done, .group 3 ⟨true, [5, 7], false⟩)] := by decide

theorem test_read_requests :
    answers (after [.readRequests .a 0] asked) = [(.done, .requests 0 0 false false [(5, 1, 2)])] := by decide

theorem test_events :
    answers (after [.setMask .b 0x80, .request 0 6 1 2, .absorption, .readEvents .b, .clearEvents .b 0x80] live) =
      [(.done, .visible 0), (.done, .events 0x80 0x80), (.done, .visible 0)] := by decide

theorem test_capture :
    answers (after [.cell 0 (cellOf 9 1), .readCapture .b, .clearCapture .a, .readCapture .b] live) =
      [(.done, .capture (some (.late 0 9)) false), (.done, .capture (some (.late 0 9)) false), (.done, .capture none false)] := by
  decide

theorem test_tallies :
    answers (after [.cell 0 (cellOf 9 1), .readTallies .b 0, .clearTallies .a 255, .readTallies .b 0] live) =
      [(.done, .tallies ⟨0, 0, 0, 1, 0, 0, 0⟩), (.done, .none), (.done, .tallies ⟨0, 0, 0, 0, 0, 0, 0⟩)] := by decide

theorem test_meters :
    answers (after [.startMeter .a 0 0 0 0, .cell 0 (cellOf 0 2), .readMeter .b 0, .meterGateExpiry 0 100000, .readMeter .b 0,
      .stopMeter .a 0] granted) =
      [(.done, .none), (.meterBusy, .none), (.done, .meter .done 0 .ingress .ms1 1), (.done, .meterState .done)] := by decide

/-! ### Witnesses: for each obligation with hypotheses, a state and operands that meet them, clause by clause -/

theorem witness_StepRunsTheFrontCommand :
    busy.pending = [.cell 0 (cellOf 3 3), .absorption] ∧ live.pending = [] := ⟨rfl, rfl⟩

theorem busy_steps : ∃ t, step busy = .next t := ⟨_, rfl⟩

theorem witness_StepsKeepResetAndSteeringLaws : busy.ResetOk ∧ busy.SteeringOk := by
  unfold State.ResetOk State.SteeringOk; decide

theorem witness_StepsKeepRequestMatrixLaw :
    { granted with pending := [.resync 0] }.MatrixOk ∧ granted.count 0 5 1 = 1 := by
  have h : granted.tablesReady = true ∧ granted.tableInit = none ∧ granted.portMap.get 5 = ⟨.active 1, 1⟩ ∧
      granted.matrix = (Bank.fill Row.zero).set 0 (Row.zero.set 5 ((Bank.fill 0).set 1 1)) := by decide
  have hc : ∀ i d c, granted.count i d c = if i = 0 ∧ d = 5 ∧ c = 1 then 1 else 0 := fun i d c => by
    unfold State.count; rw [h.2.2.2, Bank.get_set]
    by_cases hi : (0 : Port) = i
    · rw [if_pos hi, Bank.get_set]
      by_cases hd : (5 : Dest) = d
      · rw [if_pos hd, Bank.get_set, Bank.get_fill]
        exact if_congr ⟨fun x => ⟨hi.symm, hd.symm, x.symm⟩, fun x => x.2.2.symm⟩ rfl rfl
      · rw [if_neg hd, if_neg fun x => hd x.2.1.symm, Row.zero, Bank.get_fill, Bank.get_fill]
    · rw [if_neg hi, if_neg fun x => hi x.1.symm, Row.zero, Bank.get_fill, Bank.get_fill, Bank.get_fill]
  refine ⟨⟨fun hn => absurd h.2.1 hn, fun i d c => ?_⟩, by rw [hc]; rfl⟩
  have hv : (granted.mapEntry 5).map = .active 1 := by unfold State.mapEntry; rw [h.1, h.2.2.1]; rfl
  show granted.count i d c ≤ 63 ∧ ((granted.mapEntry d).map = .void → granted.count i d c = 0)
  rw [hc]; split
  · next hd => obtain ⟨-, rfl, -⟩ := hd; rw [hv]; simp
  · simp

theorem busy_links : busy.LinksOk := by
  have h : ∀ l ∈ busy.links.cells,
      (l.link = .off ↔ l.enable = false) ∧ (l.link = .dark → l.presence = false) ∧
      (l.link = .aligning ∨ l.link = .exchange ∨ l.link = .up → l.presence = true) ∧
      (l.exchangeTimer ≠ none ↔ l.link = .exchange) ∧ (l.window ≠ none ↔ l.link = .exchange ∨ l.link = .up) ∧
      (l.window = none → l.windowCount = 0) ∧ l.windowCount ≤ 255 ∧ (1 ≤ l.threshold ∧ l.threshold ≤ 255) ∧
      (l.goodMarks < 16 ∧ (l.link ≠ .aligning → l.goodMarks = 0)) ∧
      (l.framingRun < 4 ∧ (l.framingRun ≠ 0 → l.link = .exchange ∨ l.link = .up)) ∧
      (l.retry ≤ 8 ∧ (l.retry = 8 → l.link = .faulted)) ∧
      (l.link = .off ∨ l.link = .dark ∨ l.link = .up → l.retry = 0) ∧
      (if l.link = .up then 8 ≤ l.bufferCount ∧ l.bufferCount ≤ 64 else l.bufferCount = 0) ∧ l.tallies.Ok := by
    unfold Tallies.Ok; decide
  intro p
  obtain ⟨h1, h2, h3, h4, h5, h6, h7, h8, h9, h10, h11, h12, h13, h14⟩ := h _ (List.getElem_mem (by rw [busy.links.size]; exact p.isLt))
  exact ⟨h1, h2, h3, h4, h5, h6, h7, h8, h9, h10, h11, h12, h13, h14⟩

theorem witness_StepsKeepLinkPortAndCreditLaws : busy.ResetOk ∧ busy.LinksOk ∧ busy.CreditOk :=
  ⟨witness_StepsKeepResetAndSteeringLaws.1, busy_links, by unfold State.CreditOk; decide⟩

theorem witness_StepsKeepPortsThatAreNotUpIdle : busy.IdleOk := by
  unfold State.IdleOk State.IdlePort; decide

theorem witness_StepsKeepInFlightExact : busy.InFlightOk := by unfold State.InFlightOk; decide

theorem witness_StepsKeepDrainCountsExact : busy.DrainOk := by unfold State.DrainOk; decide

theorem busy_reserved : ∀ k i, ∀ r ∈ busy.records i, match r.target with
    | .multicast g k' => k' = k → busy.slots.get k = .reserved i g r.cls
    | .unicast _ _ => True := by
  have h : ∀ i, ∀ r ∈ busy.records i, ((match r.target with
    | .multicast g k' => decide (busy.slots.get k' = .reserved i g r.cls)
    | .unicast _ _ => true) = true) := by decide
  intro k i r hr
  have := h i r hr
  split at this
  · rintro rfl; simpa using this
  · trivial

theorem busy_filled : ∀ k, (match busy.slots.get k with
    | .filled _ _ _ _ refs => decide (refs ≠ []) && decide (refs.Pairwise (· < ·))
    | _ => true) = true := by decide

theorem witness_StepsKeepSlotsAndReferencesExact : busy.SlotsOk := by
  intro k
  refine ⟨by revert k; decide, fun i r hr g hg => ?_, by revert k; decide, fun src g c x refs h => ?_⟩
  · have := busy_reserved k i r hr
    rw [hg] at this
    exact this rfl
  · have := busy_filled k
    rw [h] at this
    simpa using this

theorem witness_StepsKeepQueuesCellsAndCountsInRange : busy.QueuesOk ∧ busy.CellsOk ∧ busy.CountsOk := by
  have h : (∀ p, (busy.intakes.get p).queue = [] ∧ (busy.mcastQueues.get p).length ≤ 16 ∧
      (busy.records p).length ≤ 4 ∧ ((busy.records p).map GrantRecord.tag).Nodup ∧
      ((busy.transmit.get p).sending = true → (busy.transmit.get p).queue ≠ []) ∧
      (busy.arbiters.get p).turn ≤ 15 ∧ (busy.arbiters.get p).u ≤ 15 ∧
      ∀ e ∈ (busy.transmit.get p).queue, (match e with
        | .unicast _ _ _ x => decide (1 ≤ x.length ∧ x.length ≤ 128 ∧ x.payload.length ≤ x.length)
        | .copy _ => true) = true) ∧
      (∀ k, (match busy.slots.get k with
        | .filled _ _ _ x _ => decide (1 ≤ x.length ∧ x.length ≤ 128 ∧ x.payload.length ≤ x.length)
        | _ => true) = true) ∧
      (∀ m, (busy.meters.get m).Ok) ∧ busy.discardedA ≤ 65535 ∧ busy.discardedB ≤ 65535 ∧
      (busy.moreFaults = true → busy.capture ≠ none) := by
    unfold Meter.Ok; decide
  obtain ⟨hp, hs, hm, ha, hb, hc⟩ := h
  refine ⟨fun p => ?_, ⟨fun j => ⟨fun e he => ?_, (hp j).2.2.2.2.1⟩, fun k => ?_⟩,
    fun j => (hp j).2.2.2.2.2.1 |> fun x => ⟨x, (hp j).2.2.2.2.2.2.1⟩, hm, ha, hb, hc⟩
  · obtain ⟨h1, h2, h3, h4, -⟩ := hp p
    rw [h1]; exact ⟨Nat.zero_le _, fun w hw => absurd hw List.not_mem_nil, h2, h3, h4⟩
  · have := (hp j).2.2.2.2.2.2.2 e he
    cases e <;> simp_all [TxEntry.Ok, CellContent.Ok]
  · have := hs k
    cases h : busy.slots.get k <;> simp_all [Slot.ContentOk, CellContent.Ok]

theorem witness_LawsBoundDrainCountsAndEgressQueues :
    busy.InFlightOk ∧ busy.DrainOk ∧ busy.QueuesOk ∧ busy.SlotsOk ∧ 0 ∈ (busy.arbiters.get 1).delivery :=
  ⟨witness_StepsKeepInFlightExact, witness_StepsKeepDrainCountsExact, witness_StepsKeepQueuesCellsAndCountsInRange.1,
    witness_StepsKeepSlotsAndReferencesExact, by decide⟩

theorem witness_SentFormatsCarryTheirFieldsAndWordsAreTakenOnThemAlone :
    5 < (6#6).toNat ∧ 5 < (63#6).toNat ∧ Formats.wordCheck 0#48 ≠ Formats.wordCheckOf 0#48 ∧
    1104 ≤ (List.replicate 1104 true).length ∧
    Formats.ofBits 6 ((List.replicate 1104 true).take 6) ≠ 0x10#6 ∧ (List.replicate 22 false).length = 22 ∧
    (∀ r x c n, DownWord.refuse .mcastFull (.group 1023) 3 15 = .refuse r x c n → n < 16) ∧
    (⟨true, false, 128, 5, [1]⟩ : CellContent).length ≤ 128 := by
  refine ⟨?_, ?_, ?_, ?_, ?_, ?_, ?_, ?_⟩
  case refine_7 => rintro r x c n h; cases h; decide
  all_goals decide +kernel

theorem witness_UpstreamWordsAndCellsReadBack :
    arrivesOn 3 (.request 3 63 3 15) ∧ ∃ w, Formats.upWord (.request 3 63 3 15) = some w := ⟨rfl, _, rfl⟩

theorem witness_CommandMessagesReadBack :
    (Instr.writeGroup .b 1023 1 1 (List.replicate 255 63)).wf = true ∧
    ∃ args, Formats.argsOf (.writeGroup .b 1023 1 1 (List.replicate 255 63)) = some (.b, 14, args) :=
  ⟨by decide +kernel, _, rfl⟩

theorem witness_FirstOfferFillsTheCaptureOthersSetMoreFaults :
    live.capture = none ∧ { live with capture := some (.overrun 1) }.capture = some (.overrun 1) ∧
    ([[], []] : List (List FaultRecord)).flatten = [] ∧
    ([[.late 0 1], [], [.portFault 31]] : List (List FaultRecord)).flatten ≠ [] := by decide

theorem witness_FullResetsSetEveryBlock :
    heldLive.held = some .line ∧ live.held = none ∧ State.reset.held = none ∧ State.reset.tableInit = some 4000 ∧
    State.reset.tableInit ≠ some 3999 := by decide

theorem witness_ResetLineHoldsThePart : live.held = none ∧ heldLive.held ≠ none ∧ actsWhileHeld .absorption = false := by
  decide

theorem witness_PresenceChangesFollowTheirTable :
    live.held = none ∧ (live.links.get 4).presence ≠ true ∧ live.link 4 = .dark ∧
    (live.links.get 3).presence ≠ false ∧ live.link 3 = .aligning ∧ (live.links.get 2).presence ≠ false ∧
    live.link 2 = .exchange ∧ (live.links.get 0).presence ≠ false ∧ live.link 0 = .up ∧
    (live.links.get 5).presence ≠ false ∧ live.link 5 = .faulted ∧ (live.links.get 31).presence ≠ true ∧
    live.link 31 = .off := by decide

theorem witness_ArrivalsNotActedOnAreDiscarded :
    live.held = none ∧ arrivesOn 2 (.credit 2 3) ∧ arrivesOn 3 (.failedWord 3) ∧ live.link 31 = .off ∧ live.link 4 = .dark ∧
    live.link 5 = .faulted ∧ live.link 3 = .aligning ∧ Instr.failedWord 3 ≠ .mark 3 ∧ live.link 2 = .exchange ∧
    Instr.credit 2 3 ≠ .framingFailure 2 ∧ Instr.credit 2 3 ≠ .failedWord 2 ∧
    (∀ n, Instr.credit 2 3 ≠ .hello 2 n) ∧ live.link 0 = .up :=
  ⟨rfl, rfl, rfl, by decide⟩

theorem witness_AlignmentIsGainedAndLost :
    let early := live.updLink 3 fun l => { l with goodMarks := 14 }
    let runs (n : Nat) : State := { live with links := Bank.tab fun p => { live.links.get p with framingRun := n } }
    live.held = none ∧ early.link 3 = .aligning ∧ (early.links.get 3).goodMarks + 1 < 16 ∧ live.link 3 = .aligning ∧
    16 ≤ (live.links.get 3).goodMarks + 1 ∧ (runs 2).held = none ∧ (runs 2).link 2 = .exchange ∧
    ((runs 2).links.get 2).framingRun + 1 < 4 ∧ (runs 3).link 2 = .exchange ∧ 4 ≤ ((runs 3).links.get 2).framingRun + 1 ∧
    (runs 3).link 0 = .up ∧ 4 ≤ ((runs 3).links.get 0).framingRun + 1 := by decide

theorem witness_CheckErrorsCountAndFaultThePort :
    let at_ (n : Nat) : State := { live with links := Bank.tab fun p => { live.links.get p with windowCount := n } }
    (at_ 62).held = none ∧ (at_ 62).link 2 = .exchange ∧ ((at_ 62).links.get 2).window ≠ none ∧
    ((at_ 62).links.get 2).windowCount + 1 < ((at_ 62).links.get 2).threshold ∧
    ((at_ 63).links.get 2).threshold ≤ ((at_ 63).links.get 2).windowCount + 1 ∧ (at_ 63).link 2 = .exchange ∧
    ((at_ 63).links.get 0).threshold ≤ ((at_ 63).links.get 0).windowCount + 1 ∧ (at_ 63).link 0 = .up ∧
    ((at_ 63).links.get 0).window ≠ none ∧ 16 < (17 : Fin 32).val ∧ (cellOf 0 0).length.val = 0 ∧
    128 < (cellOf 0 129).length.val := by decide

theorem witness_HelloBringsUpOrRejoins :
    live.held = none ∧ live.link 2 = .exchange ∧ live.link 0 = .up ∧ (7 : Fin 128).val < 8 ∧ 8 ≤ (8 : Fin 128).val ∧
    8 ≤ (127 : Fin 128).val := by decide

theorem witness_LinkTimersExpireAsTheirRulesSay :
    let last := live.updLink 2 fun l => { l with retry := 7 }
    live.held = none ∧ live.link 2 = .exchange ∧ (live.links.get 2).exchangeTimer = some 1000000 ∧
    (live.links.get 2).retry + 1 < 8 ∧ last.link 2 = .exchange ∧ (last.links.get 2).exchangeTimer = some 1000000 ∧
    8 ≤ (last.links.get 2).retry + 1 ∧ live.link 0 ≠ .exchange ∧ (live.links.get 2).exchangeTimer ≠ some 999999 ∧
    (live.links.get 0).window = some 1000000 ∧ (live.links.get 0).window ≠ some 999999 := by decide

/-- Both as ingress (P0 holds the records) and as egress (a record of P0 names P1). -/
theorem witness_TeardownClearsThePortAndReturnsWhatItHeld :
    busy.LinksOk ∧ busy.InFlightOk ∧ busy.DrainOk ∧ busy.SlotsOk ∧ (busy.records 0).length = 2 ∧ busy.link 0 = .up ∧
    (∃ r ∈ busy.records 0, r.naming 1 = true) :=
  ⟨busy_links, witness_StepsKeepInFlightExact, witness_StepsKeepDrainCountsExact, witness_StepsKeepSlotsAndReferencesExact,
    by decide⟩

/-- `live` with `n` words waiting at P0. -/
def queued (n : Nat) (hold blocked : Bool) : State :=
  live.updIntake 0 fun _ => ⟨List.replicate n (.request 5 1 3), hold, blocked⟩

theorem witness_RequestWordsJoinOrAreRefusedOverrun :
    (queued 0 false true).held = none ∧ (queued 0 false true).link 0 = .up ∧
    ((queued 0 false true).intakes.get 0).blocked = true ∧ 16 ≤ ((queued 16 true false).intakes.get 0).queue.length ∧
    ((queued 11 false false).intakes.get 0).blocked = false ∧ ((queued 11 false false).intakes.get 0).queue.length < 16 ∧
    12 ≤ ((queued 11 false false).intakes.get 0).queue.length + 1 ∧
    ((queued 11 false false).links.get 0).holdEnable = true ∧ ((queued 11 false false).intakes.get 0).hold = false ∧
    ((queued 10 false false).intakes.get 0).queue.length + 1 < 12 ∧ ((queued 15 true false).intakes.get 0).hold = true ∧
    ((queued 15 true false).intakes.get 0).queue.length < 16 ∧ (15 : Fin 16) ≠ 0 := by decide

theorem witness_ResyncEmptiesTheRowAndAnswersSynced :
    (queued 15 true false).held = none ∧ (queued 15 true false).link 0 = .up := by decide

/-- From the farthest place: the pointer stands just behind the only port with words. -/
theorem witness_AbsorptionServesWaitingPortsInTurn :
    let s := { queued 2 false false with absorbPtr := 1 }
    live.held = none ∧ (∀ p, (live.intakes.get p).queue = []) ∧ s.held = none ∧
    (∀ k : Port, k < 31 → (s.intakes.get (s.absorbPtr + k)).queue = []) ∧
    (s.intakes.get (s.absorbPtr + 31)).queue = [.request 5 1 3, .request 5 1 3] ∧ (s.intakes.get 0).queue ≠ [] := by
  decide

theorem witness_AbsorbedRequestsRaiseTheCountOrAreRefused :
    let s := queued 5 true false
    s.held = none ∧ s.nextServed = some 0 ∧ (s.intakes.get 0).queue = .request 5 1 3 :: List.replicate 4 (.request 5 1 3) ∧
    s.link 0 = .up ∧ (s.mapEntry 5).map ≠ .void ∧ s.count 0 5 1 + 3 ≤ 63 ∧
    63 < (s.setCount 0 5 1 61).count 0 5 1 + 3 ∧ (s.setCount 0 5 1 60).count 0 5 1 + 3 = 63 ∧
    (({ s with tablesReady := false } : State).mapEntry 5).map = .void := by decide

theorem witness_AbsorbedGroupRequestsJoinOrAreRefused :
    let s := live.updIntake 0 fun _ => ⟨List.replicate 5 (.group 2 1), true, false⟩
    let full (n : Nat) : State := { s with mcastQueues := s.mcastQueues.set 0 (List.replicate n ⟨2, 1⟩) }
    s.held = none ∧ s.nextServed = some 0 ∧ (s.intakes.get 0).queue = .group 2 1 :: List.replicate 4 (.group 2 1) ∧
    s.link 0 = .up ∧ (s.groupEntry 2).valid = true ∧ (s.groupEntry 3).valid = false ∧
    16 ≤ ((full 16).mcastQueues.get 0).length ∧ ((full 15).mcastQueues.get 0).length < 16 := by decide

theorem witness_CreditRisesToTheBufferCount :
    live.held = none ∧ live.link 1 = .up ∧ 1 ≤ (1 : Fin 32).val ∧ (16 : Fin 32).val ≤ 16 ∧
    (asked.arbiters.get 1).credit + 1 > (asked.links.get 1).bufferCount ∧
    (granted.arbiters.get 1).credit + 1 ≤ (granted.links.get 1).bufferCount := by decide

theorem witness_ArbiterDecidesByEligibilityCandidatesAndTurn :
    live.eligible 31 = false ∧ loaded.eligible 1 = true := by decide

/-- With an empty delivery queue, and with the turn not reached (u is 1, k is 3). -/
theorem witness_UnicastGrantHasItsEffects :
    asked.held = none ∧ asked.link 1 = .up ∧ 1 ≤ (asked.arbiters.get 1).credit ∧ (asked.arbiters.get 1).inFlight < 8 ∧
    asked.policyChoice 1 = some ⟨0, 5, 1⟩ ∧ (asked.arbiters.get 1).delivery = [] ∧
    (∀ r ∈ asked.records 0, r.tag ≠ (asked.grantLists.get 0).nextTag) ∧ loaded.held = none ∧
    1 ≤ (loaded.arbiters.get 1).credit ∧ (loaded.arbiters.get 1).inFlight < 8 ∧ loaded.link 1 = .up ∧
    loaded.policyChoice 1 = some ⟨0, 5, 1⟩ ∧ (loaded.arbiters.get 1).u < (loaded.arbiters.get 1).turn ∧
    (∀ r ∈ loaded.records 0, r.tag ≠ (loaded.grantLists.get 0).nextTag) := by decide

/-- One candidate for each refused claim, at arbiters that then grant (P1) and do nothing (P0). -/
theorem witness_RefusedClaimsLeaveTheArbiterToDecideAfresh :
    asked.held = none ∧ asked.count 0 5 0 = 0 ∧ (asked.mapEntry 6).map ≠ .active 1 ∧ asked.link 31 ≠ .up ∧
    (let s := asked.updGrants 0 fun g => { g with records := List.replicate 4 ⟨9, 0, .unicast 5 1, none⟩ }
     s.held = none ∧ 4 ≤ (s.records 0).length) ∧
    asked.decision 1 = .grant ⟨0, 5, 1⟩ ∧ asked.decision 0 = .none := by decide

/-- The next tag is that of the second of two records, which is MULTICAST, or of the first, which is UNICAST; then a
unicast grant and a grant of the allocator on such a list. -/
theorem witness_TagReuseLapsesTheOlderRecordFirst :
    let s (n : Tag) : State := granted.updGrants 0 fun g => { g with nextTag := n }
    let first : GrantRecord := ⟨0, 1, .unicast 5 1, some 800⟩
    let second : GrantRecord := ⟨1, 0, .multicast 2 0, some 800⟩
    (s 1).link 0 = .up ∧ (s 1).records 0 = [first] ++ second :: [] ∧
    second.tag = ((s 1).grantLists.get 0).nextTag ∧ (∀ r ∈ [first], r.tag ≠ second.tag) ∧
    (s 1).slots.get 0 = .reserved 0 2 0 ∧
    (s 0).link 0 = .up ∧ (s 0).records 0 = [] ++ first :: [second] ∧ first.tag = ((s 0).grantLists.get 0).nextTag ∧
    (s 0).held = none ∧ (s 0).link 1 = .up ∧ 1 ≤ ((s 0).arbiters.get 1).credit ∧ ((s 0).arbiters.get 1).inFlight < 8 ∧
    (s 0).policyChoice 1 = some ⟨0, 5, 1⟩ ∧ ((s 0).arbiters.get 1).delivery = [] ∧
    (let t := { s 0 with mcastQueues := (s 0).mcastQueues.set 0 [⟨2, 0⟩] }
     t.allocPtr = 1 ∧ (0 : Port) = t.allocPtr + 31 ∧
     (t.link 0 = .up ∧ t.mcastQueues.get 0 ≠ [] ∧ (t.records 0).length < 4) ∧
     (∀ m' : Port, m' < 31 → ¬ (t.link (t.allocPtr + m') = .up ∧ t.mcastQueues.get (t.allocPtr + m') ≠ [] ∧
       (t.records (t.allocPtr + m')).length < 4)) ∧
     t.slots.get 1 = .free ∧ (∀ k', k' < 1 → t.slots.get k' ≠ .free)) := by decide

/-- With no unicast candidate, and with the turn reached. -/
theorem witness_DeliveryMovesTheHeadSlot :
    let s := loaded.setCount 0 5 1 0
    let t := loaded.updArb 1 fun a => { a with u := 3 }
    s.held = none ∧ s.link 1 = .up ∧ 1 ≤ (s.arbiters.get 1).credit ∧ (s.arbiters.get 1).inFlight < 8 ∧
    (s.arbiters.get 1).delivery = [0] ∧ s.policyChoice 1 = none ∧ t.held = none ∧ t.link 1 = .up ∧
    1 ≤ (t.arbiters.get 1).credit ∧ (t.arbiters.get 1).inFlight < 8 ∧ (t.arbiters.get 1).delivery = [0] ∧
    (t.arbiters.get 1).turn ≤ (t.arbiters.get 1).u := by decide

/-- No candidate; no FREE slot; and the only candidate farthest from the pointer, with the first slot taken. -/
theorem witness_AllocatorGrantsTheNextCandidateTheLowestFreeSlot :
    let s := { asked with allocPtr := 1, slots := asked.slots.set 0 (.reserved 1 2 0) }
    live.held = none ∧ (∀ i, ¬ (live.link i = .up ∧ live.mcastQueues.get i ≠ [] ∧ (live.records i).length < 4)) ∧
    (∀ k, ({ asked with slots := Bank.fill (.reserved 1 2 0) } : State).slots.get k ≠ .free) ∧ s.held = none ∧
    (0 : Port) = s.allocPtr + 31 ∧ (s.link 0 = .up ∧ s.mcastQueues.get 0 ≠ [] ∧ (s.records 0).length < 4) ∧
    (∀ m' : Port, m' < 31 → ¬ (s.link (s.allocPtr + m') = .up ∧ s.mcastQueues.get (s.allocPtr + m') ≠ [] ∧
      (s.records (s.allocPtr + m')).length < 4)) ∧
    s.slots.get 1 = .free ∧ (∀ k', k' < 1 → s.slots.get k' ≠ .free) ∧ s.mcastQueues.get 0 = [⟨2, 0⟩] ∧
    ∀ r ∈ s.records 0, r.tag ≠ (s.grantLists.get 0).nextTag := by decide

/-- The matched record is the second of two. -/
theorem witness_CellMatchedToAUnicastRecordJoinsItsPort :
    busy.LinksOk ∧ busy.held = none ∧ busy.link 0 = .up ∧ 1 ≤ (cellOf 3 128).length.val ∧ (cellOf 3 128).length.val ≤ 128 ∧
    busy.records 0 = [⟨2, 0, .multicast 2 1, some 800⟩] ++ ⟨3, 1, .unicast 5 1, some 800⟩ :: [] ∧
    (∀ e ∈ [GrantRecord.mk 2 0 (.multicast 2 1) (some 800)], e.tag ≠ (cellOf 3 128).tag) ∧ (cellOf 3 128).tag = 3 :=
  ⟨busy_links, by decide⟩

/-- With a fanout of P1, and with an empty fanout once the group is invalid; then behind a UNICAST record. -/
theorem witness_CellMatchedToAMulticastRecordFillsItsSlot :
    busy.held = none ∧ busy.link 0 = .up ∧ 1 ≤ (cellOf 2 1).length.val ∧ (cellOf 2 1).length.val ≤ 128 ∧
    busy.records 0 = [⟨2, 0, .multicast 2 1, some 800⟩, ⟨3, 1, .unicast 5 1, some 800⟩] ∧
    busy.slots.get 1 = .reserved 0 2 0 ∧ busy.fanout 2 0 ≠ [] ∧
    ({ busy with groups := Bank.fill GroupEntry.invalid } : State).fanout 2 0 = [] ∧
    granted.held = none ∧ granted.link 0 = .up ∧ [GrantRecord.mk 0 1 (.unicast 5 1) (some 800)] ≠ [] ∧
    granted.records 0 = [⟨0, 1, .unicast 5 1, some 800⟩] ++ ⟨1, 0, .multicast 2 0, some 800⟩ :: [] ∧
    (∀ e ∈ [GrantRecord.mk 0 1 (.unicast 5 1) (some 800)], e.tag ≠ (cellOf 1 128).tag) ∧
    granted.slots.get 0 = .reserved 0 2 0 := by decide

theorem witness_LateCellsAreDiscardedAndCounted :
    busy.held = none ∧ busy.link 0 = .up ∧ 1 ≤ (cellOf 4 1).length.val ∧ (cellOf 4 128).length.val ≤ 128 ∧
    ∀ r ∈ busy.records 0, r.tag ≠ (cellOf 4 1).tag := by decide

theorem witness_GrantExpiryLapsesTheRecord :
    busy.held = none ∧ busy.link 0 = .up ∧ (∀ r ∈ busy.records 0, r.tag = 2 → r.expiry ≠ some 799) ∧
    (∀ r ∈ busy.records 0, r.tag = 9 → r.expiry ≠ some 800) ∧
    busy.records 0 = [] ++ ⟨2, 0, .multicast 2 1, some 800⟩ :: [⟨3, 1, .unicast 5 1, some 800⟩] ∧
    busy.records 0 = [⟨2, 0, .multicast 2 1, some 800⟩] ++ ⟨3, 1, .unicast 5 1, some 800⟩ :: [] ∧
    (∀ e ∈ [GrantRecord.mk 2 0 (.multicast 2 1) (some 800)], e.tag ≠ 3) ∧ busy.slots.get 1 = .reserved 0 2 0 := by
  decide

/-- P0 has words waiting, P1 a cell to send; a copy of slot 0 at the head; P1 sending; nothing waiting in `live`, whose
ports stand in every state. -/
theorem witness_TransmitterSendsWordsBeforeCells :
    let sent := after [.transmissionStart 1] loaded
    let copying := loaded.updTx 1 fun t => { t with queue := [.copy 0] }
    loaded.held = none ∧ loaded.link 0 = .up ∧ loaded.link 1 = .up ∧ (loaded.transmit.get 0).sending = false ∧
    (loaded.transmit.get 0).words ≠ [] ∧ (loaded.transmit.get 1).sending = false ∧ (loaded.transmit.get 1).words = [] ∧
    (loaded.transmit.get 1).queue = [.unicast 0 1 5 ⟨true, false, 2, 5, [0xAB, 0xAB]⟩] ∧
    (copying.transmit.get 1).queue = [.copy 0] ∧
    copying.slots.get 0 = .filled 0 2 0 ⟨true, false, 3, 5, [0xAB, 0xAB, 0xAB]⟩ [1] ∧
    (loaded.transmit.get 0).queue = [] ∧ sent.held = none ∧ sent.link 1 = .up ∧ (sent.transmit.get 1).sending = true ∧
    live.held = none ∧ live.link 0 = .up ∧ (live.transmit.get 0).sending = false ∧ (live.transmit.get 0).words = [] ∧
    (live.transmit.get 0).queue = [] ∧ live.link 3 = .aligning ∧ (live.transmit.get 3).words = [] ∧
    live.link 2 = .exchange ∧ (live.transmit.get 2).words = [] ∧ live.link 31 = .off ∧ live.link 4 = .dark ∧
    live.link 5 = .faulted := by
  decide

theorem witness_TransmitCompletionReleasesTheHeadEntry :
    let sent := after [.transmissionStart 1] loaded
    let copying := loaded.updTx 1 fun t => { t with queue := [.copy 0], sending := true }
    sent.held = none ∧ (sent.transmit.get 1).sending = true ∧
    (sent.transmit.get 1).queue = [.unicast 0 1 5 ⟨true, false, 2, 5, [0xAB, 0xAB]⟩] ∧ copying.held = none ∧
    (copying.transmit.get 1).sending = true ∧ (copying.transmit.get 1).queue = [.copy 0] ∧
    copying.slots.get 0 = .filled 0 2 0 ⟨true, false, 3, 5, [0xAB, 0xAB, 0xAB]⟩ [1] := by decide

theorem witness_EveryCommandIsAnsweredOnceAndRefusalsChangeNothing :
    live.held = none ∧ Formats.argsOf (.setPort .b 0 0 1 0 0 3 64) = some (.b, 6, [0, 0, 1, 0, 0, 3, 64]) := by decide

/-- Link A holds steering, link B does not; at reset the tables are not ready. -/
theorem witness_RefusalsAreTestedInTheirOrder :
    live.held = none ∧ mutates (.commitMap .b) = some (.b, 11) ∧ live.holder ≠ some .b ∧ live.holder = some .a ∧
    live.tablesReady = true ∧ ({ live with tablesReady := false } : State).holder = some .a ∧
    32 ≤ (32#8).toNat ∧ (32#8).toNat ≠ 255 ∧ 4 ≤ (4#8).toNat ∧ 8192 ≤ (8192#16).toNat ∧ 1024 ≤ (1024#16).toNat := by
  decide

theorem witness_ArgumentBytesAreReadAsListed :
    membersArg [63, 0, 63] = some [0, 63] ∧ membersArg [64] = none ∧ membersArg (List.replicate 65 0) = none := by
  decide

theorem witness_SteeringAndTimingSettings :
    live.held = none ∧ State.reset.holder = none ∧ live.holder = some .a ∧ MgmtLink.a ≠ .b ∧ live.holder ≠ some .b ∧
    live.claimTimer = some 20000000 ∧ live.claimTimer ≠ some 19999999 ∧ windowArg 4 = some .off ∧
    timeoutArg 3 = some .ms1000 ∧ windowArg 5 = none ∧ timeoutArg 4 = none := by decide

/-- Hold turned off under a hold in force on an UP port; enable turned on and off; a turn of 16, a threshold of 0. -/
theorem witness_SetPortReplacesSettingsAndMovesThePort :
    live.held = none ∧ live.holder = some .a ∧ settingsArg 1 1 3 31 16 1 = none ∧ settingsArg 1 1 3 31 15 0 = none ∧
    settingsArg 1 0 3 31 15 255 = some ⟨true, false, .sole, 31, 15, 255⟩ ∧
    settingsArg 0 0 0 0 0 1 = some ⟨false, false, .round, 0, 0, 1⟩ ∧ (31 : Port).val = (31#8).toNat ∧
    (queued 12 true false).holder = some .a ∧ ((queued 12 true false).intakes.get 0).hold = true := by decide

theorem witness_FabricRestartClearsSchedulingState : busy.held = none ∧ busy.holder = some .a := by decide

/-- `live` with `n` staged entries, for D0 upwards. -/
def staged (n : Nat) : State :=
  { live with staging := ((List.finRange 64).take n).map fun d => ⟨d, .void⟩ }

theorem witness_StagingHoldsOneEntryForADestination :
    (staged 16).held = none ∧ (staged 16).holder = some .a ∧ (staged 16).tablesReady = true ∧ 64 ≤ (64#8).toNat ∧
    mappingArg 2 255 = none ∧ mappingArg 3 0 = none ∧ mappingArg 2 31 = some (.active 31) ∧
    (63 : Dest).val = (63#8).toNat ∧
    (staged 2).staging = [⟨0, .void⟩] ++ ⟨1, .void⟩ :: [] ∧ (∀ x ∈ [StagedEntry.mk 0 .void], x.dest ≠ 1) ∧
    (∀ x ∈ (staged 15).staging, x.dest ≠ 63) ∧ (staged 15).staging.length < 16 ∧
    (∀ x ∈ (staged 16).staging, x.dest ≠ 63) ∧ 16 ≤ (staged 16).staging.length := by decide

theorem witness_CommitAppliesTheWholeStagingList :
    (staged 16).held = none ∧ (staged 16).holder = some .a ∧ (staged 16).tablesReady = true ∧ live.staging = [] ∧
    (staged 16).staging ≠ [] ∧ ((staged 16).staging.map StagedEntry.dest).Nodup := by decide

theorem witness_TableReadsReturnTheTables :
    live.held = none ∧ live.tablesReady = true ∧ (1023 : Group).val = (1023#16).toNat ∧ (31 : Port).val = (31#8).toNat := by
  decide

theorem witness_WriteGroupReplacesTheEntryWhole :
    live.held = none ∧ live.holder = some .a ∧ live.tablesReady = true ∧ (1023 : Group).val = (1023#16).toNat ∧
    flagArg 1 = some true ∧ flagArg 0 = some false ∧ membersArg [63, 0, 63] = some [0, 63] ∧ flagArg 2 = none ∧
    membersArg (List.replicate 65 0) = none := by decide

theorem witness_ReadPortReturnsThePortAndClearsOneSticky :
    busy.held = none ∧ (31 : Port).val = (31#8).toNat ∧ (0 : Port).val = (0#8).toNat := by decide

theorem witness_EventCommandsAndCaptureCommands :
    live.held = none ∧ (8191#16).toNat = (8191#13 : EventSet).toNat ∧ live.holder = some .a ∧ live.holder ≠ some .b := by
  decide

theorem witness_TalliesAreReadAndCleared :
    live.held = none ∧ (31 : Port).val = (31#8).toNat ∧ live.holder = some .a := by decide

/-- A channel COUNTING under a timed gate, one COUNTING under OPEN, and one that is IDLE. -/
theorem witness_MetersAreStartedStoppedGatedAndRead :
    let s := after [.startMeter .a 0 31 1 2, .startMeter .a 3 0 0 3] live
    s.held = none ∧ s.holder = some .a ∧ (0 : Chan).val = (0#8).toNat ∧ (3 : Chan).val = (3#8).toNat ∧
    directionArg 1 = some .egress ∧ gateArg 2 = some .ms8 ∧ (31 : Port).val = (31#8).toNat ∧
    (s.meters.get 0).state = .counting ∧ (s.meters.get 0).gate ≠ .opened ∧ (s.meters.get 0).timer = some 800000 ∧
    (s.meters.get 0).timer ≠ some 799999 ∧ (s.meters.get 3).state = .counting ∧ (s.meters.get 3).gate = .opened ∧
    (s.meters.get 1).state ≠ .counting := by decide

end Sys2Proof.Tests
end

section
/-! PROOF. Proofs/Moves.lean: moves, each a change of one block, of which every step is a chain. An invariant of the
scheduling blocks is kept by every step when each move keeps it. -/

namespace Sys2Proof.Machine

/-! ### Laws of one block -/

/-- An intake queue in its range (R1, R2). -/
def Intake.Ok (q : Intake) : Prop := q.queue.length ≤ 16 ∧ ∀ w ∈ q.queue, w.Ok

/-- A grant list in its range (R71). -/
def GrantList.Ok (g : GrantList) : Prop := g.records.length ≤ 4 ∧ (g.records.map GrantRecord.tag).Nodup

/-- A transmit stage whose cells are well formed and which sends only with an entry at the head (R98, R100). -/
def Transmit.Ok (t : Transmit) : Prop := (∀ e ∈ t.queue, e.Ok) ∧ (t.sending = true → t.queue ≠ [])

/-- The arbiter's turn and u in their ranges (R44). -/
def Arbiter.Ok (a : Arbiter) : Prop := a.turn ≤ 15 ∧ a.u ≤ 15

/-! ### Moves -/

/-- A port that is UP, holds something to schedule, or is named by a record. The law of idle ports makes it UP. -/
def State.Active (s : State) (p : Port) : Prop :=
  s.link p = .up ∨ ¬ s.IdlePort p ∨ ∃ i, ∃ r ∈ s.records i, r.naming p = true

/-- `t` differs from `s` in book-keeping alone: link states and buffer counts, the request, grant and transmit blocks
and the destinations' mappings are the same, and the laws of slots, meters and capture are not broken. -/
structure State.Books (s t : State) : Prop where
  link : ∀ p, t.link p = s.link p := by intros; rfl
  buffer : ∀ p, (t.links.get p).bufferCount = (s.links.get p).bufferCount := by intros; rfl
  intakes : t.intakes = s.intakes := by rfl
  matrix : t.matrix = s.matrix := by rfl
  mcastQueues : t.mcastQueues = s.mcastQueues := by rfl
  grantLists : t.grantLists = s.grantLists := by rfl
  arbiters : t.arbiters = s.arbiters := by rfl
  transmit : t.transmit = s.transmit := by rfl
  tablesReady : t.tablesReady = s.tablesReady := by rfl
  tableInit : t.tableInit = s.tableInit := by rfl
  map : ∀ d, (t.portMap.get d).map = (s.portMap.get d).map := by intros; rfl
  slots : ∀ k, (s.slots.get k).ContentOk → (t.slots.get k).ContentOk := by exact fun _ h => h
  meters : ∀ m, (s.meters.get m).Ok → (t.meters.get m).Ok := by exact fun _ h => h
  discardedA : s.discardedA ≤ 65535 → t.discardedA ≤ 65535 := by exact fun h => h
  discardedB : s.discardedB ≤ 65535 → t.discardedB ≤ 65535 := by exact fun h => h
  capture : (s.moreFaults = true → s.capture ≠ none) → t.moreFaults = true → t.capture ≠ none := by exact fun h => h

/-- One move: book-keeping, or a change of one block with what the commands that make it assure of it. -/
inductive Move (s : State) : State → Prop
  | books {t : State} (h : s.Books t) : Move s t
  /-- A change of link state among the states other than UP. -/
  | link (p : Port) (f : LinkPort → LinkPort) (down : s.link p ≠ .up) (stays : (f (s.links.get p)).link ≠ .up)
      (buffer : (f (s.links.get p)).bufferCount = (s.links.get p).bufferCount) : Move s (s.updLink p f)
  /-- Teardown, with the change of the link port that its cause makes (R147). -/
  | leave (p : Port) (f : LinkPort → LinkPort) (buffer : ∀ l, (f l).bufferCount = l.bufferCount) :
      Move s ((s.teardown p).updLink p f)
  | enter (p : Port) (n : Nat) :
      Move s ((s.updLink p (LinkPort.toUp s.now n)).updArb p fun a => { a with credit := n })
  | intake (p : Port) (q : Intake) (active : s.Active p) (keeps : (s.intakes.get p).Ok → q.Ok) :
      Move s { s with intakes := s.intakes.set p q }
  /-- A new row, in which a count has risen only up to 63 and toward a destination that is not VOID. -/
  | row (i : Port) (r : Row) (active : s.Active i)
      (bounds : ∀ d c, (r.get d).get c ≤ s.count i d c ∨ ((r.get d).get c ≤ 63 ∧ (s.mapEntry d).map ≠ .void)) :
      Move s { s with matrix := s.matrix.set i r }
  | mcast (p : Port) (q : List McastRequest) (active : s.Active p)
      (keeps : (s.mcastQueues.get p).length ≤ 16 → q.length ≤ 16) :
      Move s { s with mcastQueues := s.mcastQueues.set p q }
  | grants (i : Port) (g : GrantList) (active : s.Active i) (keeps : (s.grantLists.get i).Ok → g.Ok)
      (naming : ∀ r ∈ g.records, ∀ j, r.naming j = true → s.Active j) :
      Move s { s with grantLists := s.grantLists.set i g }
  | arbiters (b : Bank 32 Arbiter) (keeps : ∀ j, (s.arbiters.get j).Ok → (b.get j).Ok)
      (idle : ∀ j, s.Active j ∨ (s.arbiters.get j = (s.arbiters.get j).idle → b.get j = (b.get j).idle)) :
      Move s { s with arbiters := b }
  | transmit (j : Port) (x : Transmit) (active : s.Active j) (keeps : (s.transmit.get j).Ok → x.Ok) :
      Move s { s with transmit := s.transmit.set j x }
  /-- The completion of table initialisation (R39, R41). -/
  | tables (running : s.tableInit ≠ none) :
      Move s { s with portMap := Bank.fill MapEntry.void, tablesReady := true, tableInit := none }
  /-- A full reset, with or without table initialisation running behind it (R170). -/
  | reset {t : State} (h : State.reset.Books { t with tableInit := State.reset.tableInit }) : Move s t
  /-- The fabric restart (R149). -/
  | restart :
      Move s { s.clearScheduling with links := Bank.tab fun p => (s.links.get p).afterRestart s.now }
  /-- One staged entry applied; the counts toward a destination taken to VOID are cleared (R17, R35). -/
  | remap (e : StagedEntry) (ready : s.tablesReady = true) :
      Move s
        (if (s.mapEntry e.dest).map ≠ .void ∧ e.map = .void then
          (s.updEntry e.dest fun x => { x with map := e.map }).clearDest e.dest
        else s.updEntry e.dest fun x => { x with map := e.map })

/-- A chain of moves. -/
def State.Moves (s t : State) : Prop := Relation.ReflTransGen Move s t

theorem Meter.countAt_ok {m : Meter} (h : m.Ok) (d : Direction) (p : Port) : (m.countAt d p).Ok := by
  unfold Meter.countAt
  split
  · exact ⟨h.1, raiseTo_le _ _ _⟩
  · exact h

theorem Meter.stopped_ok {m : Meter} (h : m.Ok) : m.stopped.Ok := by
  unfold Meter.stopped
  split
  · exact ⟨by simp, h.2⟩
  · exact h

theorem Meter.started_ok (now : Time) (p : Port) (d : Direction) (g : Gate) : (Meter.started now p d g).Ok := by
  cases g <;> simp [Meter.started, Meter.Ok, Gate.time]

namespace State

variable {s t u : State}

/-! ### Active ports -/

theorem active_of_up {p : Port} (h : s.link p = .up) : s.Active p := .inl h

theorem active_of_isUp {p : Port} (h : s.isUp p = true) : s.Active p := .inl ((isUp_iff s p).mp h)

theorem active_of_intake {p : Port} (h : s.intakes.get p ≠ Intake.idle) : s.Active p :=
  .inr (.inl fun idle => h idle.1)

theorem active_of_transmit {p : Port} (h : (s.transmit.get p).queue ≠ []) : s.Active p :=
  .inr (.inl fun ⟨_, _, _, _, idle, _, _⟩ => h (by rw [idle]; rfl))

theorem active_of_record {i : Port} {r : GrantRecord} (h : r ∈ s.records i) : s.Active i :=
  .inr (.inl fun ⟨_, _, idle, _⟩ => by simp [records, idle, GrantList.empty] at h)

theorem active_of_naming {i j : Port} {r : GrantRecord} (h : r ∈ s.records i) (hj : r.naming j = true) : s.Active j :=
  .inr (.inr ⟨i, r, h, hj⟩)

/-! ### Book-keeping -/

theorem Books.raise (s : State) (k : EventKind) : s.Books (s.raise k) := {}

theorem Books.emit (s : State) (o : Output) : s.Books (s.emit o) := {}

theorem Books.arrive (s : State) (due : Time) : s.Books (s.arrive due) := {}

theorem Books.offer (s : State) (f : FaultRecord) : s.Books (s.offer f) := by
  unfold State.offer
  split
  · exact { capture := fun _ _ => Option.some_ne_none f }
  · next x h => exact { capture := fun _ _ => by rw [h]; exact Option.some_ne_none x }

/-- A change of a link port that keeps its link state and buffer count. -/
theorem Books.updLink (s : State) (p : Port) {f : LinkPort → LinkPort}
    (link : (f (s.links.get p)).link = (s.links.get p).link)
    (buffer : (f (s.links.get p)).bufferCount = (s.links.get p).bufferCount) : s.Books (s.updLink p f) where
  link q := by
    simp only [State.link, updLink_links, Bank.get_upd]
    split
    · next h => rw [← h, link]
    · rfl
  buffer q := by
    simp only [updLink_links, Bank.get_upd]
    split
    · next h => rw [← h, buffer]
    · rfl

/-- A change of every link port that keeps link states and buffer counts. -/
theorem Books.links (s : State) {f : LinkPort → LinkPort} (link : ∀ l, (f l).link = l.link)
    (buffer : ∀ l, (f l).bufferCount = l.bufferCount) :
    s.Books { s with links := Bank.tab fun p => f (s.links.get p) } where
  link q := by simp only [State.link, Bank.get_tab, link]
  buffer q := by simp only [Bank.get_tab, buffer]

theorem Books.drain (s : State) (d : Dest) (f : Nat → Nat) :
    s.Books (s.updEntry d fun e => { e with drain := f e.drain }) where
  map d' := by
    simp only [updEntry_portMap, Bank.get_upd]
    split <;> rfl

theorem Books.updSlot (s : State) (k : SlotNo) {f : Slot → Slot} (keeps : ∀ x : Slot, x.ContentOk → (f x).ContentOk) :
    s.Books (s.updSlot k f) where
  slots k' h := by
    simp only [updSlot_slots, Bank.get_upd]
    split
    · exact keeps _ h
    · exact h

theorem Books.countMeters (s : State) (d : Direction) (p : Port) : s.Books (s.countMeters d p) where
  meters m h := by
    simp only [countMeters_meters, Bank.get_tab]
    exact Meter.countAt_ok h d p

theorem Books.updMeter (s : State) (m : Chan) {f : Meter → Meter} (keeps : ∀ x : Meter, x.Ok → (f x).Ok) :
    s.Books { s with meters := s.meters.upd m f } where
  meters m' h := by
    simp only [Bank.get_upd]
    split
    · exact keeps _ h
    · exact h

/-! ### Chains -/

namespace Moves

theorem refl (s : State) : s.Moves s := Relation.ReflTransGen.refl

theorem tail (h : s.Moves t) (m : Move t u) : s.Moves u := Relation.ReflTransGen.tail h m

theorem books (h : s.Moves t) (b : t.Books u) : s.Moves u := h.tail (.books b)

theorem raise (h : s.Moves t) (k : EventKind) : s.Moves (t.raise k) := h.books (.raise t k)

theorem emit (h : s.Moves t) (o : Output) : s.Moves (t.emit o) := h.books (.emit t o)

theorem respond (h : s.Moves t) (l : MgmtLink) (code : Byte) (st : Status) (d : ResponseData) :
    s.Moves (t.respond l code st d) := h.emit _

theorem arrive (h : s.Moves t) (due : Time) : s.Moves (t.arrive due) := h.books (.arrive t due)

theorem offer (h : s.Moves t) (f : FaultRecord) : s.Moves (t.offer f) := h.books (.offer t f)

theorem offerAll (h : s.Moves t) (fs : List FaultRecord) : s.Moves (t.offerAll fs) := by
  induction fs generalizing t with
  | nil => exact h
  | cons f fs ih => exact ih (h.offer f)

theorem offerGroups (h : s.Moves t) (gs : List (List FaultRecord)) : s.Moves (t.offerGroups gs) := by
  unfold State.offerGroups
  split
  · exact h
  · exact h.offerAll _
  · exact (h.books (u := { t with freeCount := t.freeCount + 1 }) {}).offerAll _

/-- A change of a transmit stage that keeps its entries and does not begin a cell. -/
theorem words (h : s.Moves t) {j : Port} (active : t.Active j) (ws : List DownWord) :
    s.Moves (t.updTx j fun x => { x with words := ws }) :=
  h.tail (.transmit j _ active id)

theorem sendWord (h : s.Moves t) (p : Port) (w : DownWord) : s.Moves (t.sendWord p w) := by
  unfold State.sendWord
  split
  · next up => exact h.words (active_of_isUp up) _
  · exact h

theorem sendWords (h : s.Moves t) (w : DownWord) (ps : List Port) :
    s.Moves (ps.foldl (fun t p => t.sendWord p w) t) := by
  induction ps generalizing t with
  | nil => exact h
  | cons p ps ih => exact ih (h.sendWord p w)

/-! ### Link ports -/

/-- A change of a link port that keeps its link state and buffer count. -/
theorem updLink (h : s.Moves t) (p : Port) {f : LinkPort → LinkPort} (link : ∀ l, (f l).link = l.link)
    (buffer : ∀ l, (f l).bufferCount = l.bufferCount) : s.Moves (t.updLink p f) :=
  h.books (.updLink t p (link _) (buffer _))

/-- A change of link state among the states other than UP. -/
theorem moveLink (h : s.Moves t) {p : Port} {f : LinkPort → LinkPort} (down : t.link p ≠ .up)
    (stays : ∀ l, (f l).link ≠ .up) (buffer : ∀ l, (f l).bufferCount = l.bufferCount) : s.Moves (t.updLink p f) :=
  h.tail (.link p f down (stays _) (buffer _))

theorem framed (h : s.Moves t) (p : Port) : s.Moves (t.framed p) := h.updLink p (fun _ => rfl) fun _ => rfl

theorem leaveUp (h : s.Moves t) (p : Port) {f : LinkPort → LinkPort} (buffer : ∀ l, (f l).bufferCount = l.bufferCount) :
    s.Moves (t.leaveUp p f) :=
  ((h.tail (.leave p f buffer)).raise _).offerGroups _

theorem enterUp (h : s.Moves t) (p : Port) (n : Nat) : s.Moves (t.enterUp p n) := (h.tail (.enter p n)).raise _

theorem enterExchange (h : s.Moves t) {p : Port} (down : t.link p ≠ .up) : s.Moves (t.enterExchange p) :=
  (h.moveLink (f := LinkPort.toExchange t.now) down (fun _ => by simp [LinkPort.toExchange]) fun _ => rfl).emit _

theorem enterFaulted (h : s.Moves t) (p : Port) : s.Moves (t.enterFaulted p) := by
  unfold State.enterFaulted
  split
  · exact (((h.tail (.leave p LinkPort.toFaulted fun _ => rfl)).raise _).raise _).offerGroups _
  · next down =>
    rw [isUp_iff] at down
    have moved := h.moveLink (f := LinkPort.toFaulted) down (fun _ => by simp [LinkPort.toFaulted]) fun _ => rfl
    exact (moved.raise _).offer _

theorem checkError (h : s.Moves t) (p : Port) : s.Moves (t.checkError p) := by
  have counted : s.Moves (t.updLink p LinkPort.countError) := h.updLink p (fun _ => rfl) fun _ => rfl
  simp only [State.checkError]
  split
  · exact counted.enterFaulted p
  · exact counted

/-- What arrives is used for alignment, discarded, or taken on an exchanging or UP port. -/
theorem receive (s : State) (p : Port) {f g : State → State}
    (exchanging : (s.framed p).link p = .exchange → s.Moves (f (s.framed p)))
    (up : (s.framed p).link p = .up → s.Moves (g (s.framed p))) : s.Moves (s.receive p f g) := by
  cases h : s.link p with
  | off => rw [receive_shut (.inl h)]; exact refl s
  | dark => rw [receive_shut (.inr (.inl h))]; exact refl s
  | faulted => rw [receive_shut (.inr (.inr h))]; exact refl s
  | aligning => rw [receive_aligning h]; exact (refl s).updLink p (fun _ => rfl) fun _ => rfl
  | exchange => rw [receive_exchange h]; exact exchanging (by rw [link_framed, h])
  | up => rw [receive_up h]; exact up (by rw [link_framed, h])

end Moves

end State

end Sys2Proof.Machine
end

section
/-! PROOF. Proofs/Operations.lean: the moves that each operation of the model is made of. -/

namespace Sys2Proof.Machine.State

variable {s t u : State}

/-! ### Updates of different blocks commute -/

theorem updGrants_updGrants (s : State) (i : Port) (f g : GrantList → GrantList) :
    (s.updGrants i f).updGrants i g = s.updGrants i fun x => g (f x) := by
  simp only [updGrants, Bank.upd_upd]

theorem returnGrant_updGrants (s : State) (r : GrantRecord) (i : Port) (f : GrantList → GrantList) :
    (s.updGrants i f).returnGrant r = (s.returnGrant r).updGrants i f := by
  unfold returnGrant
  split <;> rfl

theorem offer_updGrants (s : State) (x : FaultRecord) (i : Port) (f : GrantList → GrantList) :
    (s.updGrants i f).offer x = (s.offer x).updGrants i f := by
  simp only [offer, updGrants_capture]
  split <;> rfl

theorem sendWord_updGrants (s : State) (p : Port) (w : DownWord) (i : Port) (f : GrantList → GrantList) :
    (s.updGrants i f).sendWord p w = (s.sendWord p w).updGrants i f := by
  have same : (s.updGrants i f).isUp p = s.isUp p := rfl
  simp only [sendWord, same]
  split <;> rfl

/-- The lapse of a record and a further change of its list: one change of the list, behind the return of what the
record held. -/
theorem lapse_updGrants (s : State) (i : Port) (r : GrantRecord) (f : GrantList → GrantList) :
    (s.lapse i r).updGrants i f =
      (((((s.returnGrant r).updGrants i fun g => f (g.remove r.tag)).updLink i fun l =>
        { l with tallies := l.tallies.addLapsed 1 }).raise .grantLapsed).offer (lapseFault i r)).sendWord i
          (lapsedWord r) := by
  have link (u : State) (g : GrantList → GrantList) (h : LinkPort → LinkPort) :
      (u.updGrants i g).updLink i h = (u.updLink i h).updGrants i g := rfl
  have raise (u : State) (g : GrantList → GrantList) (k : EventKind) :
      (u.updGrants i g).raise k = (u.raise k).updGrants i g := rfl
  simp only [lapse, returnGrant_updGrants, link, raise, offer_updGrants, sendWord_updGrants, updGrants_updGrants]

theorem lapse_eq (s : State) (i : Port) (r : GrantRecord) :
    s.lapse i r =
      (((((s.returnGrant r).updGrants i fun g => g.remove r.tag).updLink i fun l =>
        { l with tallies := l.tallies.addLapsed 1 }).raise .grantLapsed).offer (lapseFault i r)).sendWord i
          (lapsedWord r) := by
  rw [lapse, returnGrant_updGrants]

/-- The rest of a list stays when its first records lapse. -/
theorem records_lapseAll {i : Port} {rs rest : List GrantRecord} (list : s.records i = rs ++ rest) :
    (s.lapseAll i rs).records i = rest := by
  rw [records, lapseAll_grantLists s i rs rest list, Bank.get_upd_self]

/-! ### Laws of blocks that operations keep -/

theorem unreserve_contentOk {x : Slot} (h : x.ContentOk) : x.unreserve.ContentOk := by
  cases x <;> exact h

theorem release_contentOk {x : Slot} (h : x.ContentOk) (j : Port) : (x.release j).ContentOk := by
  unfold Slot.release
  split
  · next src g c content refs =>
    cases refs.filter (· ≠ j) with
    | nil => trivial
    | cons r rs => exact h
  · exact h
  · exact h

theorem remove_ok {g : GrantList} (h : g.Ok) (tag : Tag) : (g.remove tag).Ok :=
  have sub : (g.remove tag).records.Sublist g.records := List.eraseP_sublist
  ⟨sub.length_le.trans h.1, h.2.sublist (sub.map _)⟩

/-- A record with a tag behind a list from which an older record with that tag has left. -/
theorem place_ok {g : GrantList} (room : g.records.length < 4) (r : GrantRecord) (next : Tag) (h : g.Ok) :
    GrantList.Ok ⟨(g.remove r.tag).records ++ [r], next⟩ := by
  obtain ⟨-, nodup⟩ := h
  have sub : (g.remove r.tag).records.Sublist g.records := List.eraseP_sublist
  refine ⟨?_, ?_⟩
  · have := sub.length_le
    simp only [List.length_append, List.length_singleton]
    omega
  · have fresh : ∀ x ∈ (g.remove r.tag).records, x.tag ≠ r.tag := by
      have key : (g.remove r.tag).records.map GrantRecord.tag = (g.records.map GrantRecord.tag).erase r.tag := by
        rw [List.erase_eq_eraseP, List.eraseP_map]
        simp only [GrantList.remove]
        congr 2
        funext x
        simp only [Function.comp_apply, Bool.beq_eq_decide_eq, eq_comm]
      intro x hx heq
      have := List.mem_map_of_mem (f := GrantRecord.tag) hx
      rw [key, heq] at this
      exact nodup.not_mem_erase this
    rw [List.map_append, List.map_singleton, List.nodup_append]
    refine ⟨nodup.sublist (sub.map _), List.nodup_singleton _, ?_⟩
    intro a ha b hb
    obtain ⟨x, hx, rfl⟩ := List.mem_map.mp ha
    rw [List.mem_singleton.mp hb]
    exact fresh x hx

namespace Moves

/-! ### Grant records (R72 to R79) -/

/-- A change of one arbiter of an active port that keeps turn and u. -/
theorem updArb (h : s.Moves t) {j : Port} {f : Arbiter → Arbiter} (active : t.Active j)
    (keeps : ∀ a : Arbiter, a.Ok → (f a).Ok) :
    s.Moves (t.updArb j f) := by
  refine h.tail (.arbiters (t.arbiters.upd j f) (fun k ok => ?_) fun k => ?_)
  · rw [Bank.get_upd]
    split
    · exact keeps _ ok
    · exact ok
  · by_cases hk : j = k
    · exact .inl (hk ▸ active)
    · exact .inr fun idle => by rw [Bank.get_upd_ne _ hk, ← idle]

theorem updGrants (h : s.Moves t) {i : Port} {f : GrantList → GrantList} (active : t.Active i)
    (keeps : (t.grantLists.get i).Ok → (f (t.grantLists.get i)).Ok)
    (naming : ∀ r ∈ (f (t.grantLists.get i)).records, r ∈ t.records i ∨ ∀ j, r.naming j = true → t.Active j) :
    s.Moves (t.updGrants i f) :=
  h.tail (.grants i _ active keeps fun r hr j hj => (naming r hr).elim (active_of_naming · hj) (· j hj))

theorem removeRecord (h : s.Moves t) {i : Port} (active : t.Active i) (tag : Tag) :
    s.Moves (t.updGrants i fun g => g.remove tag) :=
  h.updGrants active (remove_ok · tag) fun _ hr => .inl (List.mem_of_mem_eraseP hr)

/-- What a record of a list held is returned. -/
theorem returnGrant (h : s.Moves t) {i : Port} {r : GrantRecord} (mem : r ∈ t.records i) :
    s.Moves (t.returnGrant r) := by
  unfold State.returnGrant
  split
  · next d j hr =>
    have active : t.Active j := active_of_naming mem (by simp [GrantRecord.naming, hr])
    have credited := h.updArb (f := fun a => a.giveBack (t.links.get j).bufferCount) active fun _ ok => ok
    exact credited.books (.drain _ d (· - 1))
  · exact h.books (.updSlot _ _ fun _ => unreserve_contentOk)

theorem tallies (h : s.Moves t) (i : Port) (f : Tallies → Tallies) :
    s.Moves (t.updLink i fun l => { l with tallies := f l.tallies }) :=
  h.updLink i (fun _ => rfl) fun _ => rfl

theorem lapse (h : s.Moves t) {i : Port} {r : GrantRecord} (mem : r ∈ t.records i) : s.Moves (t.lapse i r) := by
  have listed : r ∈ (t.returnGrant r).records i := by simpa [records] using mem
  rw [lapse_eq]
  have removed := (h.returnGrant mem).removeRecord (active_of_record listed) r.tag
  exact (((removed.tallies i (·.addLapsed 1)).raise _).offer _).sendWord _ _

/-- The first records of a list lapse, in order. -/
theorem lapseAll (h : s.Moves t) {i : Port} {rs rest : List GrantRecord} (list : t.records i = rs ++ rest) :
    s.Moves (t.lapseAll i rs) := by
  induction rs generalizing t with
  | nil => exact h
  | cons r rs ih =>
    refine ih (h.lapse (by simp [list])) ?_
    have : (t.grantLists.get i).records = r :: rs ++ rest := list
    simp [records, lapse_grantLists, GrantList.remove, this]

/-- A record with a tag joins a list with room, behind the leaving of an older record with that tag. -/
theorem joinRecord (h : s.Moves t) {i : Port} {r : GrantRecord} {f : GrantList → GrantList} (active : t.Active i)
    (room : (t.records i).length < 4)
    (list : (f (t.grantLists.get i)).records = ((t.grantLists.get i).remove r.tag).records ++ [r])
    (naming : ∀ j, r.naming j = true → t.Active j) : s.Moves (t.updGrants i f) := by
  refine h.updGrants active (fun ok => ?_) fun x hx => ?_
  · have := place_ok room r (f (t.grantLists.get i)).nextTag ok
    rwa [← list] at this
  · rw [list, List.mem_append, List.mem_singleton] at hx
    rcases hx with hx | rfl
    · exact .inl (List.mem_of_mem_eraseP hx)
    · exact .inr naming

theorem placeRecord (h : s.Moves t) {i : Port} {target : GrantTarget} (c : Cls) (place : t.placeOpen i = true)
    (naming : ∀ d j, target = .unicast d j → t.link j = .up) : s.Moves (t.placeRecord i target c) := by
  simp only [placeOpen, Bool.and_eq_true, decide_eq_true_eq] at place
  obtain ⟨up, room⟩ := place
  rw [isUp_iff] at up
  have named : ∀ (u : State) (r : GrantRecord), u.links = t.links → r.target = target →
      ∀ j, r.naming j = true → u.Active j := by
    intro u r hl hr j hj
    simp only [GrantRecord.naming, hr] at hj
    split at hj
    · next d j' =>
      rw [decide_eq_true_eq] at hj
      exact hj ▸ active_of_up (by simpa [link, hl] using naming d j' rfl)
    · cases hj
  cases found : (t.records i).find? fun r => r.tag = (t.grantLists.get i).nextTag with
  | none =>
    simp only [State.placeRecord, found]
    refine (h.joinRecord (r := ⟨(t.grantLists.get i).nextTag, c, target, t.grantWindow.time.map (t.now + ·)⟩)
      (active_of_up up) room ?_ (named t _ rfl rfl)).sendWord _ _
    have : ∀ r ∈ t.records i, r.tag ≠ (t.grantLists.get i).nextTag := by simpa using found
    simp only [GrantList.remove]
    rw [List.eraseP_of_forall_not (by simpa [records] using this)]
  | some old =>
    have tag : old.tag = (t.grantLists.get i).nextTag := by simpa using List.find?_some found
    have mem : old ∈ t.records i := List.mem_of_find?_eq_some found
    simp only [State.placeRecord, found]
    rw [lapse_updGrants]
    refine (((((Moves.joinRecord
      (r := ⟨(t.grantLists.get i).nextTag, c, target, t.grantWindow.time.map (t.now + ·)⟩) (h.returnGrant mem) ?_ ?_ ?_
        (named _ _ ?_ rfl)).tallies i (·.addLapsed 1)).raise _).offer _).sendWord _ _).sendWord _ _
    · exact active_of_up (by simpa [link] using up)
    · simpa [records] using room
    · simp only [tag, returnGrant_grantLists]
    · exact returnGrant_links t old

theorem link_placeRecord (t : State) (i : Port) (target : GrantTarget) (c : Cls) (p : Port) :
    (t.placeRecord i target c).link p = t.link p := by
  simp only [State.placeRecord, link, sendWord_links, updGrants_links]
  split
  · exact link_lapse t i p _
  · rfl

/-! ### Arbiters and the allocator -/

theorem eligible_up {j : Port} (h : t.eligible j = true) : t.link j = .up := by
  simp only [eligible, Bool.and_eq_true] at h
  exact (isUp_iff t j).mp h.1.1

/-- What a decision that is not `none` says of its arbiter, and of the candidate of a grant. -/
theorem eligible_of_decision {j : Port} (h : t.decision j ≠ .none) : t.eligible j = true := by
  unfold State.decision at h
  split at h
  · exact absurd rfl h
  · next e => simpa using e

theorem presentClaims_eq_some {j : Port} {x : Candidate} (h : t.presentClaims j x = some u) :
    u = (t.setCount x.ingress x.dest x.cls (t.count x.ingress x.dest x.cls - 1)).updEntry x.dest
        (fun e => { e with drain := e.drain + 1 }) ∧ u.placeOpen x.ingress = true := by
  simp only [presentClaims, claimCount, claimEntry, Option.bind_eq_bind, Option.bind_eq_some_iff,
    Option.ite_none_right_eq_some, Option.some.injEq] at h
  obtain ⟨s1, ⟨-, rfl⟩, s2, ⟨-, rfl⟩, place, rfl⟩ := h
  exact ⟨rfl, place⟩

/-- A row in which one count is set. -/
theorem setCount (h : s.Moves t) {i : Port} {d : Dest} {c : Cls} {n : Nat} (active : t.Active i)
    (bound : n ≤ t.count i d c ∨ (n ≤ 63 ∧ (t.mapEntry d).map ≠ .void)) : s.Moves (t.setCount i d c n) := by
  refine h.tail (.row i ((t.matrix.get i).upd d fun cs => cs.set c n) active fun d' c' => ?_)
  by_cases hd : d = d'
  · subst hd
    by_cases hc : c = c'
    · subst hc; simpa using bound
    · simp [hc, count]
  · simp [hd, count]

theorem grantUnicast (h : s.Moves t) {j : Port} (x : Candidate) (eligible : t.eligible j = true) :
    s.Moves (t.grantUnicast j x) := by
  unfold State.grantUnicast
  split
  · next u claims =>
    obtain ⟨rfl, place⟩ := presentClaims_eq_some claims
    have up := eligible_up eligible
    have ingress : t.link x.ingress = .up := by
      simp only [placeOpen, Bool.and_eq_true, isUp_iff] at place
      exact place.1
    have claimed := (h.setCount (d := x.dest) (c := x.cls) (active_of_up ingress) (.inl (Nat.sub_le _ 1))).books
      (.drain _ x.dest (· + 1))
    have placed := claimed.placeRecord (target := .unicast x.dest j) x.cls place fun d j' e => by cases e; exact up
    refine placed.updArb (f := fun a => a.granted x) (active_of_up ?_) fun a ok => ⟨ok.1, raiseTo_le _ _ _⟩
    exact (link_placeRecord _ _ _ _ _).trans up
  · exact h

theorem deliver (h : s.Moves t) {j : Port} (k : SlotNo) (eligible : t.eligible j = true) : s.Moves (t.deliver j k) := by
  have up := eligible_up eligible
  have arb := h.updArb (f := fun a =>
    { a with credit := a.credit - 1, inFlight := a.inFlight + 1, u := 0, delivery := a.delivery.tail })
    (active_of_up up) fun a ok => ⟨ok.1, Nat.zero_le _⟩
  refine arb.tail (.transmit j _ (active_of_up up) fun ok => ⟨?_, fun _ => by simp⟩)
  intro e he
  rcases List.mem_append.mp he with he | he
  · exact ok.1 e he
  · rw [List.mem_singleton.mp he]; trivial

theorem decideAfresh (h : s.Moves t) (j : Port) : s.Moves (t.decideAfresh j) := by
  have eligible := @eligible_of_decision t j
  unfold State.decideAfresh
  split
  · exact h
  · next k hd => exact h.deliver k (eligible (by simp [hd]))
  · next x hd => exact h.grantUnicast x (eligible (by simp [hd]))

theorem grantMulticast (h : s.Moves t) {i : Port} (q : McastRequest) (k : SlotNo) (place : t.placeOpen i = true) :
    s.Moves (t.grantMulticast i q k) := by
  have active : t.Active i := by
    simp only [placeOpen, Bool.and_eq_true] at place
    exact active_of_isUp place.1
  have taken := h.tail (.mcast i (t.mcastQueues.get i).tail active fun len => by
    rw [List.length_tail]; omega)
  have reserved := taken.books (.updSlot _ k (f := fun _ => .reserved i q.group q.cls) fun _ _ => trivial)
  have moved := reserved.books (u := { t with
    mcastQueues := t.mcastQueues.upd i List.tail
    slots := t.slots.set k (.reserved i q.group q.cls)
    allocPtr := i + 1 }) {}
  exact moved.placeRecord q.cls place fun d j e => by cases e

/-! ### Cells -/

theorem fillSlot (h : s.Moves t) (i : Port) (g : Group) (c : Cls) (k : SlotNo) {x : CellContent} (ok : x.Ok) :
    s.Moves (t.fillSlot i g c k x) := by
  simp only [State.fillSlot]
  split
  · exact (h.books (.updSlot _ k (f := fun _ => .free) fun _ _ => trivial)).tallies _ Tallies.addEmptyFanout
  · next p ps fan =>
    have up : ∀ j ∈ p :: ps, t.Active j := by
      intro j hj
      rw [← fan, State.fanout] at hj
      exact active_of_isUp (List.mem_filter.mp hj).2
    have queued := h.tail (.arbiters (Bank.tab fun j =>
        if j ∈ p :: ps then { t.arbiters.get j with delivery := (t.arbiters.get j).delivery ++ [k] }
        else t.arbiters.get j)
      (fun j ok => by rw [Bank.get_tab]; split <;> exact ok)
      fun j => by
        by_cases hj : j ∈ p :: ps
        · exact .inl (up j hj)
        · exact .inr fun idle => by rw [Bank.get_tab, if_neg hj, ← idle])
    exact queued.books (.updSlot _ k (f := fun _ => .filled _ _ _ x (p :: ps)) fun _ _ => ok)

/-- A cell matched to the record `r` at the head of its list leaves the list and is handed off. -/
theorem takeCell (h : s.Moves t) {i : Port} {r : GrantRecord} (mem : r ∈ t.records i) {x : CellContent} (ok : x.Ok) :
    s.Moves ((((t.updGrants i fun g => g.remove r.tag).updLink i fun l =>
      { l with tallies := l.tallies.addCellsIn }).countMeters .ingress i).handOff i r x) := by
  unfold State.handOff
  split
  · next d j hr =>
    have active : t.Active j := active_of_naming mem (by simp [GrantRecord.naming, hr])
    have queued := h.tail (.transmit j { t.transmit.get j with
        queue := (t.transmit.get j).queue ++ [.unicast i r.cls d x] } active fun tx => ⟨fun e he => by
          rcases List.mem_append.mp he with he | he
          · exact tx.1 e he
          · rw [List.mem_singleton.mp he]; exact ok, fun _ => by simp⟩)
    have removed := queued.removeRecord (i := i) (active_of_record mem) r.tag
    have counted := removed.tallies i Tallies.addCellsIn
    exact counted.books (.countMeters _ .ingress i)
  · next g k hr =>
    have removed := h.removeRecord (active_of_record mem) r.tag
    have counted := removed.tallies i Tallies.addCellsIn
    exact (counted.books (.countMeters _ .ingress i)).fillSlot i g r.cls k ok

theorem carried_ok {x : UpCell} (length : ¬ (x.length.val = 0 ∨ 128 < x.length.val)) : (carried x).Ok := by
  simp only [not_or, Nat.not_lt] at length
  exact ⟨Nat.one_le_iff_ne_zero.mpr length.1, length.2, List.length_take_le _ _⟩

theorem offerCell (h : s.Moves t) (i : Port) {x : UpCell} (ok : (carried x).Ok) : s.Moves (t.offerCell i x) := by
  unfold State.offerCell
  have list := List.takeWhile_append_dropWhile (p := fun r : GrantRecord => decide (r.tag ≠ x.tag)) (l := t.records i)
  split
  · next r rest match_ =>
    rw [match_] at list
    refine (h.lapseAll list.symm).takeCell ?_ ok
    exact (records_lapseAll list.symm).symm ▸ List.mem_cons_self
  · exact ((h.tallies i Tallies.addLate).raise _).offer _

/-! ### Transmission -/

theorem complete (h : s.Moves t) {j : Port} {e : TxEntry} {es : List TxEntry}
    (queue : (t.transmit.get j).queue = e :: es) :
    s.Moves (t.complete j e) := by
  have active : t.Active j := active_of_transmit (by simp [queue])
  have arb := h.updArb (f := fun a => { a with inFlight := a.inFlight - 1 }) active fun _ ok => ok
  have left := arb.tail (.transmit j
    { queue := (t.transmit.get j).queue.tail, sending := false, words := (t.transmit.get j).words }
    (active_of_transmit (by simp [queue])) fun tx => ⟨fun x hx => tx.1 x (List.mem_of_mem_tail hx), by simp⟩)
  have released : s.Moves (((t.updTx j fun x => { x with queue := x.queue.tail, sending := false }).updArb j fun a =>
      { a with inFlight := a.inFlight - 1 }).releaseEntry j e) := by
    cases e with
    | unicast src c d x => exact left.books (.drain _ d (· - 1))
    | copy k => exact left.books (.updSlot _ k fun _ ok => release_contentOk ok j)
  exact ((released.tallies j Tallies.addCellsOut).books (.countMeters _ .egress j)).emit _

/-! ### Requests -/

/-- A change of the intake of an active port that keeps its queue's words or takes some of them. -/
theorem updIntake (h : s.Moves t) {p : Port} {f : Intake → Intake} (active : t.Active p)
    (keeps : (t.intakes.get p).Ok → (f (t.intakes.get p)).Ok) : s.Moves (t.updIntake p f) :=
  h.tail (.intake p _ active keeps)

theorem accountRefusal (h : s.Moves t) (p : Port) : s.Moves (t.accountRefusal p) :=
  (h.tallies p Tallies.addRefused).raise _

theorem intakeWord (h : s.Moves t) {p : Port} {w : RequestWord} (up : t.link p = .up) (ok : w.Ok) :
    s.Moves (t.intakeWord p w) := by
  unfold State.intakeWord
  split
  · exact (((h.updIntake (active_of_up up) id).accountRefusal p).offer _).sendWord _ _
  · next space =>
    simp only [not_or, intakeLimit, Nat.not_le] at space
    have joined : s.Moves (t.updIntake p fun q => { q with queue := q.queue ++ [w] }) :=
      h.updIntake (active_of_up up) fun q => ⟨by
        simp only [List.length_append, List.length_singleton]; omega, fun x hx => by
          rcases List.mem_append.mp hx with hx | hx
          · exact q.2 x hx
          · rw [List.mem_singleton.mp hx]; exact ok⟩
    simp only [State.join]
    split
    · exact (joined.updIntake (active_of_up up) id).sendWord _ _
    · exact joined

theorem resynced (h : s.Moves t) {p : Port} (up : t.link p = .up) : s.Moves (t.resynced p) := by
  have clear : ∀ u : State, u.link p = .up → s.Moves u →
      s.Moves { u with
        intakes := u.intakes.set p Intake.idle
        matrix := u.matrix.set p Row.zero
        mcastQueues := u.mcastQueues.set p [] } := by
    intro u up h
    have queue := h.tail (.intake p Intake.idle (active_of_up up) fun _ => by simp [Intake.Ok, Intake.idle])
    have row := queue.tail (.row p Row.zero (active_of_up up) fun d c => by simp [Row.zero])
    exact row.tail (.mcast p [] (active_of_up up) fun _ => Nat.zero_le _)
  simp only [State.resynced]
  split
  · exact (clear _ (by simpa [link] using up) (h.sendWord p .resume)).sendWord _ _
  · exact (clear _ up h).sendWord _ _

/-- The effect of an absorbed word on the row or the multicast request queue of its port. -/
theorem absorbWord (h : s.Moves t) {i : Port} (active : t.Active i) (w : RequestWord) : s.Moves (t.absorbWord i w).1 := by
  cases w with
  | request d c n =>
    simp only [State.absorbWord, absorbRequest]
    split
    · exact h
    · next route =>
      split
      · exact h.setCount active (.inr ⟨Nat.le_refl _, route⟩)
      · next below =>
        simp only [countLimit, Nat.not_lt] at below
        exact h.setCount active (.inr ⟨below, route⟩)
  | group g c =>
    simp only [State.absorbWord, absorbGroup]
    split
    · exact h
    · split
      · exact h
      · next space =>
        simp only [mcastLimit, Nat.not_le] at space
        exact h.tail (.mcast i _ active fun _ => by simp only [List.length_append, List.length_singleton]; omega)

theorem sendBoth (h : s.Moves t) (i : Port) (w : Option DownWord) (resumes : Bool) : s.Moves (t.sendBoth i w resumes) := by
  have used : s.Moves { t with freeCount := t.freeCount + 1 } := h.books {}
  cases w <;> cases resumes
  · exact h
  · exact h.sendWord _ _
  · exact h.sendWord _ _
  · simp only [State.sendBoth]
    split
    · exact (used.sendWord _ _).sendWord _ _
    · exact (used.sendWord _ _).sendWord _ _

end Moves

end Sys2Proof.Machine.State
end

section
/-! PROOF. Proofs/Commands.lean: the moves of each command, and of a step. -/

namespace Sys2Proof.Machine.State

variable {s t u : State}

/-! ### Absorption in parts -/

/-- The oldest word of the queue of `i` taken, with `rest` behind it, and the pointer moved (R11). -/
def popped (s : State) (i : Port) (rest : List RequestWord) : State :=
  { s.updIntake i fun q => { q with queue := rest } with absorbPtr := i + 1 }

/-- The absorbed word's own effect does not read the queue it was taken from, nor the pointer. -/
theorem absorbWord_popped (s : State) (i : Port) (rest : List RequestWord) (w : RequestWord) :
    (s.popped i rest).absorbWord i w = ((s.absorbWord i w).1.popped i rest, (s.absorbWord i w).2) := by
  cases w with
  | request d c n =>
    have entry : (s.popped i rest).mapEntry d = s.mapEntry d := rfl
    have count : (s.popped i rest).count i d c = s.count i d c := rfl
    simp only [absorbWord, absorbRequest, entry, count]
    split
    · rfl
    · split <;> rfl
  | group g c =>
    have entry : (s.popped i rest).groupEntry g = s.groupEntry g := rfl
    have queue : (s.popped i rest).mcastQueues = s.mcastQueues := rfl
    simp only [absorbWord, absorbGroup, entry, queue]
    split
    · rfl
    · split <;> rfl

theorem absorbWord_intakes (s : State) (i : Port) (w : RequestWord) : (s.absorbWord i w).1.intakes = s.intakes := by
  cases w with
  | request d c n =>
    simp only [absorbWord, absorbRequest]
    split
    · rfl
    · split <;> rfl
  | group g c =>
    simp only [absorbWord, absorbGroup]
    split
    · rfl
    · split <;> rfl

/-- An absorption before the hold is ended and words are sent: the word's effect, the queue's rest, the accounting. -/
def absorbed (s : State) (i : Port) (w : RequestWord) (rest : List RequestWord) : State :=
  if (s.absorbWord i w).2.isSome then ((s.absorbWord i w).1.popped i rest).accountRefusal i
  else (s.absorbWord i w).1.popped i rest

theorem absorb_eq (s : State) (i : Port) (w : RequestWord) (rest : List RequestWord) :
    s.absorb i w rest =
      (if (s.intakes.get i).hold && rest.length == 4 then
        (s.absorbed i w rest).updIntake i fun q => { q with hold := false }
      else s.absorbed i w rest).sendBoth i (s.absorbWord i w).2 ((s.intakes.get i).hold && rest.length == 4) := by
  have folded : s.absorb i w rest =
      (if (s.intakes.get i).hold && rest.length == 4 then
        (if ((s.popped i rest).absorbWord i w).2.isSome then ((s.popped i rest).absorbWord i w).1.accountRefusal i
        else ((s.popped i rest).absorbWord i w).1).updIntake i fun q => { q with hold := false }
      else
        if ((s.popped i rest).absorbWord i w).2.isSome then ((s.popped i rest).absorbWord i w).1.accountRefusal i
        else ((s.popped i rest).absorbWord i w).1).sendBoth i ((s.popped i rest).absorbWord i w).2
          ((s.intakes.get i).hold && rest.length == 4) := rfl
  rw [folded, absorbWord_popped]
  rfl

theorem absorbed_intakes (s : State) (i : Port) (w : RequestWord) (rest : List RequestWord) :
    (s.absorbed i w rest).intakes = s.intakes.upd i fun q => { q with queue := rest } := by
  have popped : ((s.absorbWord i w).1.popped i rest).intakes = s.intakes.upd i fun q => { q with queue := rest } :=
    by rw [← absorbWord_intakes s i w]; rfl
  unfold absorbed
  split <;> exact popped

namespace Moves

theorem of_whenRunning {f : State → State} (moves : s.Moves (f s)) (run : whenRunning s f = .next t) : s.Moves t := by
  simp only [whenRunning, Host.Outcome.next.injEq] at run
  subst run
  split
  · exact refl s
  · exact moves

theorem mutating {l : MgmtLink} {code : Byte} {f : State → State} (moves : s.Moves (f s)) :
    s.Moves (s.mutating l code f) := by
  unfold State.mutating
  split
  · exact moves
  · exact (refl s).respond _ _ _ _

/-! ### Resets -/

theorem fullReset (s : State) (cause : StartCause) (strap : Plane) : s.Moves (s.fullReset cause strap) :=
  (refl s).tail (.reset {
    link := fun p => by simp [link, State.fullReset, State.reset, LinkPort.reset]
    buffer := fun p => by simp [State.fullReset, State.reset, LinkPort.reset] })

theorem holdReset (s : State) (cause : StartCause) : s.Moves (s.holdReset cause) :=
  (refl s).tail (.reset {
    link := fun p => by simp [link, State.holdReset, State.fullReset, State.reset, LinkPort.reset]
    buffer := fun p => by simp [State.holdReset, State.fullReset, State.reset, LinkPort.reset] })

theorem trans (h : s.Moves t) (k : t.Moves u) : s.Moves u := Relation.ReflTransGen.trans h k

theorem powerOn {strap : Plane} {presence : BitVec 32} {asserted : Bool}
    (run : execPowerOn strap presence asserted s = .next t) : s.Moves t := by
  simp only [execPowerOn, Host.Outcome.next.injEq] at run
  subst run
  have levels : s.Moves { s with
      links := Bank.tab fun p => { s.links.get p with presence := presence.getLsbD p.val } } :=
    (refl s).books { link := fun p => by simp [link], buffer := fun p => by simp }
  split
  · exact levels.trans (holdReset _ _)
  · exact levels.trans (fullReset _ _ _)

theorem resetLineAssert (run : execResetLineAssert s = .next t) : s.Moves t := by
  simp only [execResetLineAssert, Host.Outcome.next.injEq] at run
  subst run
  split
  · exact refl s
  · exact holdReset s _

theorem resetLineRelease {strap : Plane} (run : execResetLineRelease strap s = .next t) : s.Moves t := by
  simp only [execResetLineRelease, Host.Outcome.next.injEq] at run
  subst run
  split
  · exact fullReset s _ strap
  · exact refl s

theorem tableInitialisationCompletion {due : Time} (run : execTableInitialisationCompletion due s = .next t) :
    s.Moves t := by
  refine of_whenRunning ?_ run
  split
  · next running =>
    have complete := ((refl s).arrive due).tail (.tables (by rw [arrive_tableInit, running]; exact Option.some_ne_none _))
    have groups := complete.books (u := { s.arrive due with
      portMap := Bank.fill MapEntry.void
      groups := Bank.fill GroupEntry.invalid
      tablesReady := true
      tableInit := none }) {}
    exact groups.raise _
  · exact refl s

/-! ### Link ports -/

theorem presenceMove (h : s.Moves t) (p : Port) (present : Bool) : s.Moves (t.presenceMove p present) := by
  unfold State.presenceMove
  split
  · next d =>
    exact h.moveLink (f := LinkPort.toAligning) (by simp [d]) (fun _ => by simp [LinkPort.toAligning]) fun _ => rfl
  · next d => exact h.moveLink (f := LinkPort.toDark) (by simp [d]) (fun _ => by simp [LinkPort.toDark]) fun _ => rfl
  · next d => exact h.moveLink (f := LinkPort.toDark) (by simp [d]) (fun _ => by simp [LinkPort.toDark]) fun _ => rfl
  · exact h.leaveUp p (f := LinkPort.toDark) fun _ => rfl
  · exact h

theorem presenceChange {p : Port} {present : Bool} (run : execPresenceChange p present s = .next t) : s.Moves t := by
  simp only [execPresenceChange, Host.Outcome.next.injEq] at run
  subst run
  have taken : s.Moves (s.updLink p fun l => { l with presence := present }) :=
    (refl s).updLink p (fun _ => rfl) fun _ => rfl
  split
  · exact refl s
  · split
    · exact taken
    · exact (taken.raise _).presenceMove p present

theorem mark {p : Port} (run : execMark p s = .next t) : s.Moves t := by
  refine of_whenRunning ?_ run
  split
  · next aligning =>
    simp only [goodMark]
    split
    · exact (refl s).enterExchange (by simp [aligning])
    · exact (refl s).updLink p (fun _ => rfl) fun _ => rfl
  · exact receive s p (fun _ => (refl s).framed p) fun _ => (refl s).framed p

theorem alignmentLost (h : s.Moves t) (p : Port) : s.Moves (t.alignmentLost p) := by
  simp only [State.alignmentLost]
  split
  · exact (h.leaveUp p (f := LinkPort.loseAlignment) fun _ => rfl).raise _
  · next down =>
    rw [isUp_iff] at down
    exact (h.moveLink (f := LinkPort.loseAlignment) down (fun _ => by simp [LinkPort.loseAlignment]) fun _ => rfl).raise _

theorem framingFailed (h : s.Moves t) (p : Port) : s.Moves (t.framingFailed p) := by
  simp only [State.framingFailed]
  split
  · exact h.alignmentLost p
  · exact h.updLink p (fun _ => rfl) fun _ => rfl

theorem framingFailure {p : Port} (run : execFramingFailure p s = .next t) : s.Moves t := by
  refine of_whenRunning ?_ run
  split
  · exact refl s
  · exact refl s
  · exact refl s
  · exact (refl s).updLink p (fun _ => rfl) fun _ => rfl
  · exact (refl s).framingFailed p
  · exact (refl s).framingFailed p

theorem failedWord {p : Port} (run : execFailedWord p s = .next t) : s.Moves t :=
  have error := ((refl s).framed p).checkError p
  of_whenRunning (receive s p (fun _ => error) fun _ => error) run

theorem hello {p : Port} {n : Fin 128} (run : execHello p n s = .next t) : s.Moves t := by
  have framed := (refl s).framed p
  refine of_whenRunning (receive s p (fun _ => ?_) fun _ => ?_) run
  · simp only [helloInExchange]
    split
    · exact framed
    · exact framed.enterUp p _
  · simp only [helloInUp]
    split
    · exact framed
    · exact (framed.leaveUp p (f := id) fun _ => rfl).enterUp p _

theorem exchangeTimerExpiry {p : Port} {due : Time} (run : execExchangeTimerExpiry p due s = .next t) : s.Moves t := by
  refine of_whenRunning ?_ run
  have counted : s.Moves ((s.arrive due).updLink p fun l => { l with retry := l.retry + 1 }) :=
    ((refl s).arrive due).updLink p (fun _ => rfl) fun _ => rfl
  split
  · simp only [exchangeExpired]
    split
    · have restarted := counted.updLink p (f := fun l =>
        { l with exchangeTimer := some ((s.arrive due).now + linkPeriod) }) (fun _ => rfl) fun _ => rfl
      exact restarted.emit _
    · exact counted.enterFaulted p
  · exact refl s

theorem checkErrorWindowExpiry {p : Port} {due : Time} (run : execCheckErrorWindowExpiry p due s = .next t) :
    s.Moves t := by
  refine of_whenRunning ?_ run
  split
  · exact ((refl s).arrive due).updLink p (fun _ => rfl) fun _ => rfl
  · exact refl s

/-! ### Words and cells -/

theorem request {p : Port} {d : Dest} {c : Cls} {n : Fin 16} (run : execRequest p d c n s = .next t) : s.Moves t := by
  have framed := (refl s).framed p
  refine of_whenRunning (receive s p (fun _ => framed) fun up => ?_) run
  split
  · exact framed.checkError p
  · next count => exact framed.intakeWord up count

theorem groupRequest {p : Port} {g : Group} {c : Cls} (run : execGroupRequest p g c s = .next t) : s.Moves t :=
  have framed := (refl s).framed p
  of_whenRunning (receive s p (fun _ => framed) fun up => framed.intakeWord (w := .group g c) up trivial) run

theorem resync {p : Port} (run : execResync p s = .next t) : s.Moves t :=
  have framed := (refl s).framed p
  of_whenRunning (receive s p (fun _ => framed) fun up => framed.resynced up) run

theorem takeCredit (h : s.Moves t) {p : Port} (n : Nat) (up : t.link p = .up) : s.Moves (t.takeCredit p n) := by
  have credit : ∀ f : Arbiter → Nat, s.Moves (t.updArb p fun a => { a with credit := f a }) := fun f =>
    h.updArb (active_of_up up) fun _ ok => ok
  simp only [State.takeCredit]
  split
  · exact ((credit fun _ => (t.links.get p).bufferCount).raise _).offer _
  · exact credit (·.credit + n)

theorem creditReturn {p : Port} {n : Fin 32} (run : execCredit p n s = .next t) : s.Moves t := by
  have framed := (refl s).framed p
  refine of_whenRunning (receive s p (fun _ => framed) fun up => ?_) run
  split
  · exact framed.checkError p
  · exact framed.takeCredit _ up

theorem cell {p : Port} {x : UpCell} (run : execCell p x s = .next t) : s.Moves t := by
  have framed := (refl s).framed p
  refine of_whenRunning (receive s p (fun _ => framed) fun up => ?_) run
  split
  · exact framed.checkError p
  · next length => exact framed.offerCell p (carried_ok length)

/-! ### The part's own decisions -/

theorem pop (h : s.Moves t) {i : Port} {w : RequestWord} {rest : List RequestWord}
    (queue : (t.intakes.get i).queue = w :: rest) : s.Moves (t.popped i rest) := by
  refine Moves.books (h.updIntake (p := i) (f := fun q => { q with queue := rest }) ?_ fun ok => ?_) {}
  · exact active_of_intake fun idle => by simp [idle, Intake.idle] at queue
  · rw [Intake.Ok, queue] at ok
    exact ⟨Nat.le_of_succ_le ok.1, fun x hx => ok.2 x (List.mem_cons_of_mem _ hx)⟩

theorem absorb (h : s.Moves t) {i : Port} {w : RequestWord} {rest : List RequestWord}
    (queue : (t.intakes.get i).queue = w :: rest) : s.Moves (t.absorb i w rest) := by
  have active : t.Active i := active_of_intake fun idle => by simp [idle, Intake.idle] at queue
  have popped := (h.absorbWord active w).pop (i := i) (w := w) (rest := rest) (by rw [absorbWord_intakes, queue])
  have absorbed : s.Moves (t.absorbed i w rest) := by
    unfold State.absorbed
    split
    · exact popped.accountRefusal i
    · exact popped
  rw [absorb_eq]
  refine Moves.sendBoth ?_ i _ _
  split
  · next resumes =>
    simp only [Bool.and_eq_true] at resumes
    refine absorbed.updIntake (active_of_intake fun idle => ?_) id
    rw [absorbed_intakes, Bank.get_upd_self] at idle
    exact absurd (congrArg Intake.hold idle) (by simp [resumes.1, Intake.idle])
  · exact absorbed

theorem absorption (run : execAbsorption s = .next t) : s.Moves t := by
  refine of_whenRunning ?_ run
  split
  · exact refl s
  · split
    · exact refl s
    · next queue => exact (refl s).absorb queue

theorem unicastGrantDecision {j : Port} {chosen : Option Candidate} (run : execUnicastGrantDecision j chosen s = .next t) :
    s.Moves t := by
  have decides (refused : Bool) : s.Moves (if refused then s.decideAfresh j else
      match s.decision j with
      | .grant x => s.grantUnicast j x
      | .none | .deliver _ => s) := by
    cases refused
    · rw [if_neg Bool.false_ne_true]
      split
      · next x decided => exact (refl s).grantUnicast x (eligible_of_decision (by simp [decided]))
      · exact refl s
      · exact refl s
    · exact (refl s).decideAfresh j
  exact of_whenRunning (decides _) run

theorem deliveryDecision {j : Port} (run : execDeliveryDecision j s = .next t) : s.Moves t := by
  refine of_whenRunning ?_ run
  split
  · next k decided => exact (refl s).deliver k (eligible_of_decision (by simp [decided]))
  · exact refl s
  · exact refl s

theorem allocatorDecision (run : execAllocatorDecision s = .next t) : s.Moves t := by
  refine of_whenRunning ?_ run
  split
  · next i k chosen _ =>
    have candidate : s.mcastCandidate i = true := List.find?_some (p := s.mcastCandidate) chosen
    simp only [mcastCandidate, Bool.and_eq_true] at candidate
    split
    · exact (refl s).grantMulticast _ k candidate.1
    · exact refl s
  · exact refl s

theorem grantExpiry {p : Port} {tag : Tag} {due : Time} (run : execGrantExpiry p tag due s = .next t) : s.Moves t := by
  refine of_whenRunning ?_ run
  split
  · next r found =>
    split
    · exact ((refl s).arrive due).lapse (List.mem_of_find?_eq_some found)
    · exact refl s
  · exact refl s

theorem transmissionStart {j : Port} (run : execTransmissionStart j s = .next t) : s.Moves t := by
  refine of_whenRunning ?_ run
  simp only
  split
  · next x head =>
    split
    · next free =>
      simp only [Bool.and_eq_true] at free
      refine Moves.emit ((refl s).tail (.transmit j { s.transmit.get j with sending := true } (active_of_isUp free.1.1)
        fun tx => ⟨tx.1, fun _ empty => ?_⟩)) _
      have empty : (s.transmit.get j).queue = [] := empty
      simp [headCell, empty] at head
    · exact refl s
  · exact refl s

theorem transmitCompletion {j : Port} (run : execTransmitCompletion j s = .next t) : s.Moves t := by
  refine of_whenRunning ?_ run
  split
  · next e es queue =>
    split
    · exact (refl s).complete queue
    · exact refl s
  · exact refl s

theorem controlWordTransmission {j : Port} (run : execControlWordTransmission j s = .next t) : s.Moves t := by
  refine of_whenRunning ?_ run
  simp only
  split
  · next w ws waiting =>
    split
    · next free =>
      simp only [Bool.and_eq_true] at free
      exact ((refl s).words (active_of_isUp free.1) ws).emit _
    · exact refl s
  · rw [sendFill_eq]
    split
    · exact (refl s).emit _
    · exact refl s

/-! ### Steering, events and meters -/

theorem claimTimerExpiry {due : Time} (run : execClaimTimerExpiry due s = .next t) : s.Moves t := by
  refine of_whenRunning ?_ run
  split
  · exact (((refl s).arrive due).books (u := (s.arrive due).dropSteering) {}).raise _
  · exact refl s

theorem meterGateExpiry {m : Chan} {due : Time} (run : execMeterGateExpiry m due s = .next t) : s.Moves t := by
  refine of_whenRunning ?_ run
  split
  · exact (((refl s).arrive due).books (.updMeter _ m fun _ => Meter.stopped_ok)).raise _
  · exact refl s

theorem messageCheckFailure {l : MgmtLink} (run : execMessageCheckFailure l s = .next t) : s.Moves t := by
  refine of_whenRunning ?_ run
  split
  · exact (refl s).books { discardedA := fun _ => raiseTo_le _ _ _ }
  · exact (refl s).books { discardedB := fun _ => raiseTo_le _ _ _ }

theorem claim {l : MgmtLink} (run : execClaim l s = .next t) : s.Moves t := by
  refine of_whenRunning ?_ run
  split
  · exact ((refl s).books (u := s.startClaim l) {}).respond _ _ _ _
  · exact (refl s).respond _ _ _ _

theorem refresh {l : MgmtLink} (run : execRefresh l s = .next t) : s.Moves t := by
  refine of_whenRunning ?_ run
  split
  · exact ((refl s).books (u := s.startClaim l) {}).respond _ _ _ _
  · exact (refl s).respond _ _ _ _

theorem release {l : MgmtLink} (run : execRelease l s = .next t) : s.Moves t := by
  refine of_whenRunning ?_ run
  split
  · exact ((refl s).books (u := s.dropSteering) {}).respond _ _ _ _
  · exact (refl s).respond _ _ _ _

theorem setTiming {l : MgmtLink} {window timeout : Byte} (run : execSetTiming l window timeout s = .next t) : s.Moves t := by
  refine of_whenRunning (mutating ?_) run
  split
  · next w x _ _ => exact ((refl s).books (u := { s with grantWindow := w, claimTimeout := x }) {}).respond _ _ _ _
  · exact (refl s).respond _ _ _ _

theorem setView (h : s.Moves t) (l : MgmtLink) (v : EventView) : s.Moves (t.setView l v) := by
  cases l <;> exact h.books {}

theorem clearEvents {l : MgmtLink} {kinds : BitVec 16} (run : execClearEvents l kinds s = .next t) : s.Moves t := by
  refine of_whenRunning ?_ run
  split
  · exact ((refl s).setView l _).respond _ _ _ _
  · exact (refl s).respond _ _ _ _

theorem setMask {l : MgmtLink} {kinds : BitVec 16} (run : execSetMask l kinds s = .next t) : s.Moves t := by
  refine of_whenRunning ?_ run
  split
  · exact ((refl s).setView l _).respond _ _ _ _
  · exact (refl s).respond _ _ _ _

theorem clearCapture {l : MgmtLink} (run : execClearCapture l s = .next t) : s.Moves t :=
  of_whenRunning (mutating (((refl s).books (u := { s with capture := none, moreFaults := false })
    { capture := fun _ => Bool.noConfusion }).respond _ _ _ _)) run

theorem clearTallies {l : MgmtLink} {port : Byte} (run : execClearTallies l port s = .next t) : s.Moves t := by
  refine of_whenRunning (mutating ?_) run
  split
  · exact ((refl s).books (.links s (f := LinkPort.clearTallies) (fun _ => rfl) fun _ => rfl)).respond _ _ _ _
  · split
    · next p _ => exact ((refl s).updLink p (f := LinkPort.clearTallies) (fun _ => rfl) fun _ => rfl).respond _ _ _ _
    · exact (refl s).respond _ _ _ _

theorem startMeter {l : MgmtLink} {chan port direction gate : Byte}
    (run : execStartMeter l chan port direction gate s = .next t) : s.Moves t := by
  refine of_whenRunning (mutating ?_) run
  split
  · next m p d g _ _ _ _ =>
    split
    · exact (refl s).respond _ _ _ _
    · exact ((refl s).books (.updMeter s m (f := fun _ => Meter.started s.now p d g) fun _ _ =>
        Meter.started_ok s.now p d g)).respond _ _ _ _
  · exact (refl s).respond _ _ _ _

theorem stopMeter {l : MgmtLink} {chan : Byte} (run : execStopMeter l chan s = .next t) : s.Moves t := by
  refine of_whenRunning (mutating ?_) run
  split
  · next m _ => exact ((refl s).books (.updMeter s m fun _ => Meter.stopped_ok)).respond _ _ _ _
  · exact (refl s).respond _ _ _ _

theorem readMeter {l : MgmtLink} {chan : Byte} (run : execReadMeter l chan s = .next t) : s.Moves t := by
  refine of_whenRunning ?_ run
  split
  · simp only
    split
    · exact (refl s).respond _ _ _ _
    · exact (refl s).respond _ _ _ _
  · exact (refl s).respond _ _ _ _

/-! ### Settings, restart and the Port Map -/

theorem settingsArg_turn {enable hold policy sole turn threshold : Byte} {x : PortSettings}
    (h : settingsArg enable hold policy sole turn threshold = some x) : x.turn ≤ 15 := by
  simp only [settingsArg, Option.bind_eq_bind, Option.bind_eq_some_iff, Option.ite_none_left_eq_some,
    Option.some.injEq] at h
  obtain ⟨e, -, ho, -, pol, -, src, -, k, -, -, rfl⟩ := h
  exact Nat.le_of_lt_succ k.isLt

theorem applyEnable (h : s.Moves t) (p : Port) (enable : Bool) : s.Moves (t.applyEnable p enable) := by
  have off : t.link p ≠ .up → s.Moves (t.updLink p LinkPort.toOff) := fun down =>
    h.moveLink down (fun _ => by simp [LinkPort.toOff]) fun _ => rfl
  unfold State.applyEnable
  split
  · next d =>
    refine h.moveLink (by simp [d]) (fun l => ?_) fun l => ?_
    · split <;> simp [LinkPort.toAligning]
    · split <;> rfl
  · exact h
  · exact h.leaveUp p (f := LinkPort.toOff) fun _ => rfl
  · next d => exact off (by simp [d])
  · next d => exact off (by simp [d])
  · next d => exact off (by simp [d])
  · next d => exact off (by simp [d])
  all_goals exact h

theorem setPort (h : s.Moves t) (p : Port) {x : PortSettings} (turn : x.turn ≤ 15) : s.Moves (t.setPort p x) := by
  have links : s.Moves (t.updLink p (·.withSettings x)) := h.updLink p (fun _ => rfl) fun _ => rfl
  have settled : s.Moves ((t.updLink p (·.withSettings x)).updArb p (·.withSettings x)) := by
    refine links.tail (.arbiters (t.arbiters.upd p (·.withSettings x)) (fun j ok => ?_) fun j => .inr fun idle => ?_)
    · rw [Bank.get_upd]
      split
      · exact ⟨turn, ok.2⟩
      · exact ok
    · rw [Bank.get_upd]
      split
      · exact congrArg (·.withSettings x) idle
      · exact idle
  simp only [State.setPort]
  split
  · next ends =>
    simp only [endsHold, Bool.and_eq_true] at ends
    refine ((settled.updIntake (active_of_up ?_) id).sendWord p .resume).applyEnable p x.enable
    have up := (isUp_iff t p).mp ends.1.2
    simpa [link, LinkPort.withSettings] using up
  · exact settled.applyEnable p x.enable

theorem setPortCommand {l : MgmtLink} {port enable hold policy sole turn threshold : Byte}
    (run : execSetPort l port enable hold policy sole turn threshold s = .next t) : s.Moves t := by
  refine of_whenRunning (mutating ?_) run
  split
  · next settings => exact ((refl s).setPort _ (settingsArg_turn settings)).respond _ _ _ _
  · exact (refl s).respond _ _ _ _

theorem readPort {l : MgmtLink} {port : Byte} (run : execReadPort l port s = .next t) : s.Moves t := by
  refine of_whenRunning ?_ run
  split
  · next p _ =>
    have cleared := (refl s).updLink p (f := (·.clearSticky l)) (fun _ => by cases l <;> rfl) fun _ => by cases l <;> rfl
    exact cleared.respond _ _ _ _
  · exact (refl s).respond _ _ _ _

theorem sendHellos (h : s.Moves t) (ps : List Port) : s.Moves (ps.foldl (fun t p => t.sendHello p) t) := by
  induction ps generalizing t with
  | nil => exact h
  | cons p ps ih => exact ih (h.emit _)

theorem fabricRestart {l : MgmtLink} (run : execFabricRestart l s = .next t) : s.Moves t := by
  refine of_whenRunning (mutating (Moves.respond ?_ _ _ _ _)) run
  have cleared := (refl s).tail .restart
  simp only [State.restart]
  refine Moves.sendHellos ?_ _
  split
  · exact cleared.raise _
  · exact cleared

theorem applyStaged (h : s.Moves t) (e : StagedEntry) (ready : t.tablesReady = true) : s.Moves (t.applyStaged e) := by
  have moved := h.tail (.remap e ready)
  simp only [State.applyStaged, withdraw]
  split
  · next void => rw [if_pos void] at moved; exact moved.sendWords _ _
  · next void => rwa [if_neg void] at moved

theorem sendWords_tablesReady (t : State) (w : DownWord) (ps : List Port) :
    (ps.foldl (fun t p => t.sendWord p w) t).tablesReady = t.tablesReady := by
  induction ps generalizing t with
  | nil => rfl
  | cons p ps ih => exact (ih _).trans (sendWord_tablesReady t p w)

theorem applyStaged_tablesReady (t : State) (e : StagedEntry) : (t.applyStaged e).tablesReady = t.tablesReady := by
  simp only [State.applyStaged, withdraw]
  split
  · exact sendWords_tablesReady _ _ _
  · rfl

theorem applyAll (h : s.Moves t) (es : List StagedEntry) (ready : t.tablesReady = true) :
    s.Moves (State.applyAll es t).1 := by
  induction es generalizing t with
  | nil => exact h
  | cons e es ih => exact ih (h.applyStaged e ready) ((applyStaged_tablesReady t e).trans ready)

theorem commitMap {l : MgmtLink} (run : execCommitMap l s = .next t) : s.Moves t := by
  refine of_whenRunning (mutating ?_) run
  split
  · exact (refl s).respond _ _ _ _
  · next ready =>
    split
    · exact (refl s).respond _ _ _ _
    · have applied := (refl s).applyAll s.staging (by simpa using ready)
      exact (applied.books (u := { (State.applyAll s.staging s).1 with staging := [] }) {}).respond _ _ _ _

theorem stageMap {l : MgmtLink} {dest state port : Byte} (run : execStageMap l dest state port s = .next t) :
    s.Moves t := by
  have staged : ∀ xs, s.Moves { s with staging := xs } := fun xs => (refl s).books {}
  refine of_whenRunning (mutating ?_) run
  split
  · exact (refl s).respond _ _ _ _
  · split
    · split
      · exact (staged _).respond _ _ _ _
      · split
        · exact (refl s).respond _ _ _ _
        · exact (staged _).respond _ _ _ _
    · exact (refl s).respond _ _ _ _

theorem discardStaging {l : MgmtLink} (run : execDiscardStaging l s = .next t) : s.Moves t :=
  of_whenRunning (mutating (((refl s).books (u := { s with staging := [] }) {}).respond _ _ _ _)) run

theorem writeGroup {l : MgmtLink} {g : BitVec 16} {valid prune : Byte} {members : List Byte}
    (run : execWriteGroup l g valid prune members s = .next t) : s.Moves t := by
  refine of_whenRunning (mutating ?_) run
  split
  · exact (refl s).respond _ _ _ _
  · split
    · next k v pr ds _ _ _ _ =>
      exact ((refl s).books (u := { s with groups := s.groups.set k ⟨v, ds, pr⟩ }) {}).respond _ _ _ _
    · exact (refl s).respond _ _ _ _

/-- A command that only answers. -/
theorem answers {l : MgmtLink} {code : Byte} {st : Status} {d : State → ResponseData}
    (run : whenRunning s (fun s => s.respond l code st (d s)) = .next t) : s.Moves t :=
  of_whenRunning ((refl s).respond _ _ _ _) run

theorem readMap {l : MgmtLink} (run : execReadMap l s = .next t) : s.Moves t := by
  refine of_whenRunning ?_ run
  split <;> exact (refl s).respond _ _ _ _

theorem readGroup {l : MgmtLink} {g : BitVec 16} (run : execReadGroup l g s = .next t) : s.Moves t := by
  refine of_whenRunning ?_ run
  split
  · exact (refl s).respond _ _ _ _
  · split <;> exact (refl s).respond _ _ _ _

theorem readRequests {l : MgmtLink} {port : Byte} (run : execReadRequests l port s = .next t) : s.Moves t := by
  refine of_whenRunning ?_ run
  split <;> exact (refl s).respond _ _ _ _

theorem readTallies {l : MgmtLink} {port : Byte} (run : execReadTallies l port s = .next t) : s.Moves t := by
  refine of_whenRunning ?_ run
  split <;> exact (refl s).respond _ _ _ _

end Moves

open Moves in
/-- Every command is a chain of moves. -/
theorem moves_of_exec {c : Instr} (run : exec c s = .next t) : s.Moves t := by
  cases c with
  | powerOn => exact powerOn run
  | resetLineAssert => exact resetLineAssert run
  | resetLineRelease => exact resetLineRelease run
  | tableInitialisationCompletion => exact tableInitialisationCompletion run
  | presenceChange => exact presenceChange run
  | mark => exact mark run
  | framingFailure => exact framingFailure run
  | failedWord => exact failedWord run
  | hello => exact hello run
  | request => exact request run
  | groupRequest => exact groupRequest run
  | resync => exact resync run
  | credit => exact creditReturn run
  | cell => exact cell run
  | absorption => exact absorption run
  | unicastGrantDecision => exact unicastGrantDecision run
  | deliveryDecision => exact deliveryDecision run
  | allocatorDecision => exact allocatorDecision run
  | grantExpiry => exact grantExpiry run
  | transmissionStart => exact transmissionStart run
  | transmitCompletion => exact transmitCompletion run
  | exchangeTimerExpiry => exact exchangeTimerExpiry run
  | checkErrorWindowExpiry => exact checkErrorWindowExpiry run
  | claimTimerExpiry => exact claimTimerExpiry run
  | meterGateExpiry => exact meterGateExpiry run
  | messageCheckFailure => exact messageCheckFailure run
  | unknownCommand => exact answers (d := fun _ => .none) run
  | identify => exact answers (d := fun s => .identity (s.identity _)) run
  | claim => exact claim run
  | refresh => exact refresh run
  | release => exact release run
  | setTiming => exact setTiming run
  | setPort => exact setPortCommand run
  | readPort => exact readPort run
  | fabricRestart => exact fabricRestart run
  | stageMap => exact stageMap run
  | discardStaging => exact discardStaging run
  | commitMap => exact commitMap run
  | readStaging => exact answers (d := fun s => .staging s.staging s.holder) run
  | readMap => exact readMap run
  | writeGroup => exact writeGroup run
  | readGroup => exact readGroup run
  | readRequests => exact readRequests run
  | readEvents => exact answers (d := fun s => .events (s.view _).visible (s.view _).mask) run
  | clearEvents => exact clearEvents run
  | setMask => exact setMask run
  | readCapture => exact answers (d := fun s => .capture s.capture s.moreFaults) run
  | clearCapture => exact clearCapture run
  | readTallies => exact readTallies run
  | clearTallies => exact clearTallies run
  | startMeter => exact startMeter run
  | stopMeter => exact stopMeter run
  | readMeter => exact readMeter run
  | controlWordTransmission => exact controlWordTransmission run

/-- Every step is a chain of moves. -/
theorem moves_of_step (run : step s = .next t) : s.Moves t := by
  unfold step at run
  split at run
  · cases run
    exact (Moves.refl s).books {}
  · next c rest _ => exact ((Moves.refl s).books (u := { s with pending := rest }) {}).trans (moves_of_exec run)

/-- A law that each move keeps is kept by every step. -/
theorem law_of_moves {P : State → Prop} (keep : ∀ s t, P s → Move s t → P t) (h : P s) (run : step s = .next t) : P t := by
  have moves := moves_of_step run
  clear run
  induction moves with
  | refl => exact h
  | tail _ m ih => exact keep _ _ ih m

end Sys2Proof.Machine.State
end

section
/-! PROOF. Proofs/Laws.lean: the laws that every step keeps, each shown for one move. -/

namespace Sys2Proof.Machine.State

variable {s t : State}

/-! ### What teardown leaves (R147) -/

/-- The change of a link port behind teardown does not touch the other links' states. -/
theorem link_left_ne {p q : Port} (h : p ≠ q) (f : LinkPort → LinkPort) :
    ((s.teardown p).updLink p f).link q = s.link q := by
  simp [link, h, h.symm]

theorem records_teardown (s : State) (j i : Port) :
    (s.teardown j).records i = if i = j then [] else (s.records i).filter fun r => !r.naming j := by
  simp only [records, teardown_grantLists, Bank.get_tab]
  split <;> rfl

theorem records_teardown_subset {j i : Port} {r : GrantRecord} (h : r ∈ (s.teardown j).records i) :
    r ∈ s.records i ∧ r.naming j = false := by
  rw [records_teardown] at h
  split at h
  · cases h
  · simpa using h

theorem tornTransmit_down {j i : Port} (h : i ≠ j) (down : s.link i ≠ .up) : s.tornTransmit j i = s.transmit.get i := by
  have notUp : s.isUp i = false := Bool.eq_false_iff.mpr fun up => down ((isUp_iff s i).mp up)
  simp [tornTransmit, h, notUp]

/-- An idle arbiter stays idle when another port is torn down. -/
theorem tornArbiter_idle {j k : Port} (idle : s.arbiters.get k = (s.arbiters.get k).idle)
    (buffer : (s.links.get k).bufferCount = 0) : s.tornArbiter j k = (s.tornArbiter j k).idle := by
  unfold tornArbiter
  by_cases h : k = j
  · simp [h, Arbiter.idle]
  · have credit := congrArg Arbiter.credit idle
    have inFlight := congrArg Arbiter.inFlight idle
    simp only [Arbiter.idle] at idle credit inFlight
    simp only [if_neg h, Arbiter.idle, buffer, Nat.zero_min, credit, ite_self, inFlight, Nat.zero_sub]
    rw [idle]

/-! ### Ports that are not UP (R18, R46, R71, R104, R114) -/

/-- Under the law of idle ports an active port is UP. -/
theorem IdleOk.up_of_active (h : s.IdleOk) {p : Port} (active : s.Active p) : s.link p = .up := by
  rcases active with up | holds | ⟨i, r, mem, named⟩
  · exact up
  · exact of_not_not fun down => holds (h.1 p down)
  · exact h.2 i p r mem named

/-- A state whose ports that are not UP have the blocks they had, and whose records name UP ports. -/
theorem IdleOk.of_same (h : s.IdleOk) (link : ∀ p, t.link p = s.link p)
    (same : ∀ p, s.link p ≠ .up → s.IdlePort p → t.IdlePort p)
    (records : ∀ i, ∀ r ∈ t.records i, r ∈ s.records i ∨ ∀ j, r.naming j = true → s.link j = .up) : t.IdleOk := by
  refine ⟨fun p down => ?_, fun i j r mem named => ?_⟩
  · rw [link] at down
    exact same p down (h.1 p down)
  · rw [link]
    rcases records i r mem with old | up
    · exact h.2 i j r old named
    · exact up j named

/-- The port of a changed block is not one that is not UP. -/
theorem IdleOk.ne_active (h : s.IdleOk) {p q : Port} (active : s.Active p) (down : s.link q ≠ .up) : p ≠ q := by
  rintro rfl
  exact down (h.up_of_active active)

theorem afterRestart_bufferCount (now : Time) (l : LinkPort) : (l.afterRestart now).bufferCount = 0 := by
  unfold LinkPort.afterRestart
  split <;> rfl

theorem idleOk_books (h : s.IdleOk) (b : s.Books t) : t.IdleOk := by
  refine h.of_same b.link (fun p _ idle => ?_) fun i r mem => .inl ?_
  · simpa only [IdlePort, b.intakes, b.matrix, b.grantLists, b.mcastQueues, b.transmit, b.arbiters, b.buffer] using idle
  · simpa only [records, b.grantLists] using mem

theorem idleOk_leave (h : s.IdleOk) (p : Port) {f : LinkPort → LinkPort}
    (buffer : ∀ l, (f l).bufferCount = l.bufferCount) :
    ((s.teardown p).updLink p f).IdleOk := by
  refine ⟨fun q down => ?_, fun i j r mem named => ?_⟩
  · by_cases hq : p = q
    · subst hq
      refine ⟨?_, ?_, ?_, ?_, ?_, ?_, ?_⟩ <;> simp [tornTransmit, tornArbiter, Arbiter.idle, buffer]
    · rw [link_left_ne hq] at down
      obtain ⟨intake, row, list, mcast, transmit, arbiter, count⟩ := h.1 q down
      have empty : s.records q = [] := congrArg GrantList.records list
      refine ⟨?_, ?_, ?_, ?_, ?_, ?_, ?_⟩
      · simp [hq, intake]
      · simp [hq, row]
      · simp [Ne.symm hq, empty, list, GrantList.empty]
      · simp [hq, mcast]
      · simp [tornTransmit_down (Ne.symm hq) down, transmit]
      · simpa using tornArbiter_idle arbiter count
      · simp [hq, Ne.symm hq, count]
  · obtain ⟨old, other⟩ := records_teardown_subset (s := s) mem
    have hj : p ≠ j := by rintro rfl; rw [other] at named; cases named
    rw [link_left_ne hj]
    exact h.2 i j r old named

theorem idleOk_reset : State.reset.IdleOk := by
  refine ⟨fun p _ => ?_, fun i j r mem => ?_⟩
  · simp [IdlePort, reset, Arbiter.reset, Arbiter.idle, LinkPort.reset]
  · simp [records, reset, GrantList.empty] at mem

/-- Every move keeps ports that are not UP idle, and records naming UP ports alone. -/
theorem idleOk_move (s t : State) (h : s.IdleOk) (m : Move s t) : t.IdleOk := by
  cases m with
  | books b => exact idleOk_books h b
  | link p f down stays buffer =>
    have ne : ∀ {q}, s.link q = .up → p ≠ q := fun up e => down (e ▸ up)
    refine ⟨fun q moved => ?_, fun i j r mem named => ?_⟩
    · by_cases hq : p = q
      · subst hq
        obtain ⟨intake, row, list, mcast, transmit, arbiter, count⟩ := h.1 p down
        exact ⟨intake, row, list, mcast, transmit, arbiter, by simpa [buffer] using count⟩
      · have down' : s.link q ≠ .up := by simpa [State.link, hq] using moved
        obtain ⟨intake, row, list, mcast, transmit, arbiter, count⟩ := h.1 q down'
        exact ⟨intake, row, list, mcast, transmit, arbiter, by simpa [hq] using count⟩
    · have up := h.2 i j r mem named
      simpa [State.link, ne up] using up
  | leave p f buffer => exact idleOk_leave h p buffer
  | enter p n =>
    have link : ∀ q, ((s.updLink p (LinkPort.toUp s.now n)).updArb p fun a => { a with credit := n }).link q =
        if p = q then .up else s.link q := by
      intro q
      simp only [State.link, updArb_links, updLink_links, Bank.get_upd]
      split <;> rfl
    refine ⟨fun q down => ?_, fun i j r mem named => ?_⟩
    · rw [link] at down
      have hq : p ≠ q := fun e => down (if_pos e)
      rw [if_neg hq] at down
      obtain ⟨intake, row, list, mcast, transmit, arbiter, count⟩ := h.1 q down
      exact ⟨intake, row, list, mcast, transmit, by simpa [hq] using arbiter, by simpa [hq] using count⟩
    · rw [link]
      split
      · rfl
      · exact h.2 i j r mem named
  | intake p q active _ =>
    refine h.of_same (fun _ => rfl) (fun k down idle => ?_) fun i r mem => .inl mem
    obtain ⟨intake, rest⟩ := idle
    exact ⟨by simpa [h.ne_active active down] using intake, rest⟩
  | row i r active _ =>
    refine h.of_same (fun _ => rfl) (fun k down idle => ?_) fun i r mem => .inl mem
    obtain ⟨intake, row, rest⟩ := idle
    exact ⟨intake, by simpa [h.ne_active active down] using row, rest⟩
  | mcast p q active _ =>
    refine h.of_same (fun _ => rfl) (fun k down idle => ?_) fun i r mem => .inl mem
    obtain ⟨intake, row, list, mcast, rest⟩ := idle
    exact ⟨intake, row, list, by simpa [h.ne_active active down] using mcast, rest⟩
  | grants i g active _ naming =>
    refine h.of_same (fun _ => rfl) (fun k down idle => ?_) fun k r mem => ?_
    · obtain ⟨intake, row, list, rest⟩ := idle
      exact ⟨intake, row, by simpa [h.ne_active active down] using list, rest⟩
    · by_cases hk : i = k
      · subst hk
        refine .inr fun j named => h.up_of_active (naming r ?_ j named)
        simpa [records] using mem
      · exact .inl (by simpa [records, hk] using mem)
  | arbiters b _ idle =>
    refine h.of_same (fun _ => rfl) (fun k down port => ?_) fun i r mem => .inl mem
    obtain ⟨intake, row, list, mcast, transmit, arbiter, count⟩ := port
    refine ⟨intake, row, list, mcast, transmit, ?_, count⟩
    rcases idle k with active | keeps
    · exact absurd (h.up_of_active active) down
    · exact keeps arbiter
  | transmit j x active _ =>
    refine h.of_same (fun _ => rfl) (fun k down idle => ?_) fun i r mem => .inl mem
    obtain ⟨intake, row, list, mcast, transmit, rest⟩ := idle
    exact ⟨intake, row, list, mcast, by simpa [h.ne_active active down] using transmit, rest⟩
  | tables running => exact h
  | reset b =>
    have fresh := idleOk_books idleOk_reset b
    exact fresh
  | restart =>
    refine ⟨fun p _ => ?_, fun i j r mem => ?_⟩
    · simp [IdlePort, clearScheduling, Arbiter.idle, afterRestart_bufferCount]
    · simp [records, clearScheduling, GrantList.empty] at mem
  | remap e ready =>
    have clear : ∀ u : State, u.links = s.links → u.intakes = s.intakes → u.grantLists = s.grantLists →
        u.mcastQueues = s.mcastQueues → u.transmit = s.transmit → u.arbiters = s.arbiters →
        (∀ p, s.matrix.get p = Row.zero → u.matrix.get p = Row.zero) → u.IdleOk := by
      intro u hl hi hg hm ht ha hrow
      refine h.of_same (fun p => by rw [State.link, hl]; rfl) (fun p _ idle => ?_) fun i r mem => .inl ?_
      · obtain ⟨intake, row, list, mcast, transmit, arbiter, count⟩ := idle
        exact ⟨hi ▸ intake, hrow p row, hg ▸ list, hm ▸ mcast, ht ▸ transmit, ha ▸ arbiter, hl ▸ count⟩
      · rwa [records, hg] at mem
    split
    · refine clear _ rfl rfl rfl rfl rfl rfl fun p row => ?_
      simp only [clearDest, Bank.get_tab, updEntry_matrix, row]
      ext d c
      rw [Bank.get_set]
      split <;> simp [Row.zero]
    · exact clear _ rfl rfl rfl rfl rfl rfl fun p row => row

end Sys2Proof.Machine.State

/-- Settles O6: each move keeps the law, because a block changes only at an active port, which the law makes UP. -/
theorem stepsKeepPortsThatAreNotUpIdle : Obligations.StepsKeepPortsThatAreNotUpIdle := by
  unfold Obligations.StepsKeepPortsThatAreNotUpIdle
  intro s t h run
  exact Sys2Proof.Machine.State.law_of_moves Sys2Proof.Machine.State.idleOk_move h run
end

section
/-! PROOF. Proofs/Ranges.lean: the Request Matrix law, and the ranges of queues, lists, cells and counts. -/

namespace Sys2Proof.Machine.State

variable {s t : State}

/-! ### The Request Matrix (R16) -/

theorem mapEntry_void_of_tables (h : s.tablesReady = false) (d : Dest) : s.mapEntry d = MapEntry.void := by
  simp [mapEntry, h]

/-- Counts that have not risen, or have risen up to 63 toward a destination that is not VOID, keep the law. -/
theorem MatrixOk.of_counts (h : s.MatrixOk) (init : t.tableInit ≠ none → t.tablesReady = false)
    (void : ∀ d, (t.mapEntry d).map = .void → (s.mapEntry d).map = .void ∨ ∀ i c, t.count i d c = 0)
    (count : ∀ i d c, t.count i d c ≤ s.count i d c ∨ (t.count i d c ≤ 63 ∧ (s.mapEntry d).map ≠ .void)) :
    t.MatrixOk := by
  refine ⟨init, fun i d c => ?_⟩
  obtain ⟨le, zero⟩ := h.2 i d c
  refine ⟨?_, fun v => ?_⟩
  · rcases count i d c with down | ⟨le', -⟩
    · exact down.trans le
    · exact le'
  · rcases void d v with before | cleared
    · rcases count i d c with down | ⟨-, route⟩
      · exact Nat.le_zero.mp (down.trans (zero before).le)
      · exact absurd before route
    · exact cleared i c

/-- With the tables as they were, only the counts matter. -/
theorem MatrixOk.of_same (h : s.MatrixOk) (init : t.tableInit = s.tableInit) (ready : t.tablesReady = s.tablesReady)
    (map : ∀ d, (t.portMap.get d).map = (s.portMap.get d).map)
    (count : ∀ i d c, t.count i d c ≤ s.count i d c ∨ (t.count i d c ≤ 63 ∧ (s.mapEntry d).map ≠ .void)) :
    t.MatrixOk := by
  refine h.of_counts (init ▸ ready ▸ h.1) (fun d v => .inl ?_) count
  simp only [mapEntry, ready] at v ⊢
  split
  · next r => rwa [if_pos r, map] at v
  · rfl

theorem matrixOk_books (h : s.MatrixOk) (b : s.Books t) : t.MatrixOk :=
  h.of_same b.tableInit b.tablesReady b.map fun i d c => .inl (by rw [count, count, b.matrix])

theorem matrixOk_reset : State.reset.MatrixOk := by
  refine ⟨fun _ => rfl, fun i d c => ?_⟩
  simp [count, reset, Row.zero]

/-- Every move keeps counts at most 63, and 0 toward VOID destinations. -/
theorem matrixOk_move (s t : State) (h : s.MatrixOk) (m : Move s t) : t.MatrixOk := by
  have same : ∀ t : State, t.tableInit = s.tableInit → t.tablesReady = s.tablesReady → t.portMap = s.portMap →
      (∀ i d c, t.count i d c ≤ s.count i d c ∨ (t.count i d c ≤ 63 ∧ (s.mapEntry d).map ≠ .void)) → t.MatrixOk :=
    fun t init ready map count => h.of_same init ready (fun d => by rw [map]) count
  have kept : ∀ i d c, s.count i d c ≤ s.count i d c ∨ (s.count i d c ≤ 63 ∧ (s.mapEntry d).map ≠ .void) :=
    fun _ _ _ => .inl le_rfl
  cases m with
  | books b => exact matrixOk_books h b
  | link => exact same _ rfl rfl rfl kept
  | leave p f _ =>
    refine h.of_same (by simp) (by simp) (fun d => by simp) fun i d c => .inl ?_
    simp only [count, updLink_matrix, teardown_matrix, Bank.get_set]
    split
    · simp [Row.zero]
    · exact le_rfl
  | enter => exact same _ rfl rfl rfl kept
  | intake => exact same _ rfl rfl rfl kept
  | row i r _ bounds =>
    refine same _ rfl rfl rfl fun k d c => ?_
    by_cases hk : i = k
    · subst hk; simpa [count] using bounds d c
    · exact .inl (by simp [count, hk])
  | mcast => exact same _ rfl rfl rfl kept
  | grants => exact same _ rfl rfl rfl kept
  | arbiters => exact same _ rfl rfl rfl kept
  | transmit => exact same _ rfl rfl rfl kept
  | tables running =>
    have void := mapEntry_void_of_tables (h.1 running)
    exact h.of_counts (fun e => absurd rfl e) (fun d _ => .inl (by rw [void]; rfl)) fun _ _ _ => .inl le_rfl
  | reset b =>
    have fresh := matrixOk_books matrixOk_reset b
    exact ⟨fun _ => b.tablesReady, fresh.2⟩
  | restart =>
    exact h.of_same rfl rfl (fun d => by simp [clearScheduling]) fun i d c =>
      .inl (by simp [count, clearScheduling, Row.zero])
  | remap e ready =>
    have entry : ∀ d, d ≠ e.dest → (s.updEntry e.dest fun x => { x with map := e.map }).mapEntry d = s.mapEntry d := by
      intro d hd
      simp [mapEntry, hd.symm]
    have init : s.tableInit ≠ none → s.tablesReady = false := h.1
    split
    · next taken =>
      refine h.of_counts init (fun d void => ?_) fun i d c => .inl ?_
      · by_cases hd : d = e.dest
        · exact .inr fun i c => by simp [count, clearDest, hd]
        · exact .inl (by rw [← entry d hd]; exact void)
      · simp only [count, clearDest, Bank.get_tab, Bank.get_set]
        split
        · simp
        · exact le_rfl
    · next kept =>
      refine h.of_counts init (fun d void => .inl ?_) fun i d c => .inl le_rfl
      by_cases hd : d = e.dest
      · subst hd
        refine of_not_not fun before => kept ⟨before, ?_⟩
        simpa [mapEntry, ready] using void
      · rw [← entry d hd]; exact void

/-! ### Queues and lists (R1, R71, R114) -/

/-- The law of queues, block by block. -/
theorem queuesOk_iff (s : State) :
    s.QueuesOk ↔ ∀ p, (s.intakes.get p).Ok ∧ (s.mcastQueues.get p).length ≤ 16 ∧ (s.grantLists.get p).Ok := by
  simp only [QueuesOk, Intake.Ok, GrantList.Ok, records, and_assoc]

theorem queuesOk_books (h : s.QueuesOk) (b : s.Books t) : t.QueuesOk := by
  rw [queuesOk_iff] at h ⊢
  simpa only [b.intakes, b.mcastQueues, b.grantLists] using h

theorem intake_idle_ok : Intake.idle.Ok := by simp [Intake.Ok, Intake.idle]

theorem grantList_empty_ok : GrantList.empty.Ok := by simp [GrantList.Ok, GrantList.empty]

theorem queuesOk_reset : State.reset.QueuesOk := by
  rw [queuesOk_iff]
  intro p
  simp [reset, intake_idle_ok, grantList_empty_ok]

theorem filter_ok {g : GrantList} (h : g.Ok) (q : GrantRecord → Bool) :
    GrantList.Ok { g with records := g.records.filter q } :=
  ⟨(List.length_filter_le _ _).trans h.1, h.2.sublist (List.filter_sublist.map _)⟩

/-- Every move keeps queues and lists in their ranges. -/
theorem queuesOk_move (s t : State) (h : s.QueuesOk) (m : Move s t) : t.QueuesOk := by
  have blocks := (queuesOk_iff s).mp h
  cases m with
  | books b => exact queuesOk_books h b
  | link => exact h
  | leave p f _ =>
    refine (queuesOk_iff _).mpr fun q => ?_
    obtain ⟨intake, mcast, list⟩ := blocks q
    simp only [updLink_intakes, updLink_mcastQueues, updLink_grantLists, teardown_intakes, teardown_mcastQueues,
      teardown_grantLists, Bank.get_set, Bank.get_tab]
    refine ⟨?_, ?_, ?_⟩
    · split
      · exact intake_idle_ok
      · exact intake
    · split
      · exact Nat.zero_le _
      · exact mcast
    · split
      · exact grantList_empty_ok
      · exact filter_ok list _
  | enter => exact h
  | intake p q _ keeps =>
    refine (queuesOk_iff _).mpr fun k => ?_
    obtain ⟨intake, mcast, list⟩ := blocks k
    refine ⟨?_, mcast, list⟩
    rw [Bank.get_set]
    split
    · next e => exact keeps (e ▸ intake)
    · exact intake
  | row => exact h
  | mcast p q _ keeps =>
    refine (queuesOk_iff _).mpr fun k => ?_
    obtain ⟨intake, mcast, list⟩ := blocks k
    refine ⟨intake, ?_, list⟩
    rw [Bank.get_set]
    split
    · next e => exact keeps (e ▸ mcast)
    · exact mcast
  | grants i g _ keeps _ =>
    refine (queuesOk_iff _).mpr fun k => ?_
    obtain ⟨intake, mcast, list⟩ := blocks k
    refine ⟨intake, mcast, ?_⟩
    rw [Bank.get_set]
    split
    · next e => exact keeps (e ▸ list)
    · exact list
  | arbiters => exact h
  | transmit => exact h
  | tables => exact h
  | reset b =>
    have fresh := queuesOk_books queuesOk_reset b
    exact fresh
  | restart =>
    refine (queuesOk_iff _).mpr fun k => ?_
    simp [clearScheduling, intake_idle_ok, grantList_empty_ok]
  | remap e _ => split <;> exact h

/-! ### Cells on their way (R98, R100, R121) -/

theorem cellsOk_books (h : s.CellsOk) (b : s.Books t) : t.CellsOk :=
  ⟨fun j => b.transmit ▸ h.1 j, fun k => b.slots k (h.2 k)⟩

theorem transmit_empty_ok : Transmit.empty.Ok := by simp [Transmit.Ok, Transmit.empty]

theorem cellsOk_reset : State.reset.CellsOk := by
  refine ⟨fun j => ?_, fun k => ?_⟩
  · simp [reset, Transmit.empty]
  · simp [reset, Slot.ContentOk]

theorem tornTransmit_ok {j i : Port} (h : (s.transmit.get i).Ok) : (s.tornTransmit j i).Ok := by
  simp only [tornTransmit]
  split
  · exact transmit_empty_ok
  · split <;> exact h

theorem tornSlot_contentOk {j : Port} {k : SlotNo} (h : (s.slots.get k).ContentOk) : (s.tornSlot j k).ContentOk := by
  have unreserved : (if (s.records j).any (·.reserves k) then (s.slots.get k).unreserve else s.slots.get k).ContentOk := by
    split
    · exact unreserve_contentOk h
    · exact h
  simp only [tornSlot]
  split
  · exact release_contentOk unreserved j
  · exact unreserved

/-- Every move keeps cells well formed, and transmission with an entry at the head. -/
theorem cellsOk_move (s t : State) (h : s.CellsOk) (m : Move s t) : t.CellsOk := by
  cases m with
  | books b => exact cellsOk_books h b
  | link => exact h
  | leave p f _ =>
    refine ⟨fun j => ?_, fun k => ?_⟩
    · simp only [updLink_transmit, teardown_transmit, Bank.get_tab]
      exact tornTransmit_ok (h.1 j)
    · simp only [updLink_slots, teardown_slots, Bank.get_tab]
      exact tornSlot_contentOk (h.2 k)
  | enter => exact h
  | intake => exact h
  | row => exact h
  | mcast => exact h
  | grants => exact h
  | arbiters => exact h
  | transmit j x _ keeps =>
    refine ⟨fun k => ?_, h.2⟩
    rw [Bank.get_set]
    split
    · exact keeps (h.1 j)
    · exact h.1 k
  | tables => exact h
  | reset b =>
    have fresh := cellsOk_books cellsOk_reset b
    exact fresh
  | restart =>
    refine ⟨fun j => ?_, fun k => ?_⟩
    · simp [clearScheduling, Transmit.empty]
    · simp [clearScheduling, Slot.ContentOk]
  | remap e _ => split <;> exact h

/-! ### Counters, meters and the capture (R44, R153, R177, R181) -/

theorem countsOk_books (h : s.CountsOk) (b : s.Books t) : t.CountsOk := by
  obtain ⟨arbiters, meters, a, b', capture⟩ := h
  exact ⟨b.arbiters ▸ arbiters, fun m => b.meters m (meters m), b.discardedA a, b.discardedB b', b.capture capture⟩

theorem countsOk_reset : State.reset.CountsOk := by
  refine ⟨fun j => ?_, fun m => ?_, ?_, ?_, ?_⟩ <;> simp [reset, Arbiter.reset, Meter.Ok, Meter.reset]

theorem tornArbiter_ok {j k : Port} (h : (s.arbiters.get k).Ok) : (s.tornArbiter j k).Ok := by
  simp only [tornArbiter]
  split
  · exact ⟨h.1, Nat.zero_le _⟩
  · exact h

/-- New arbiters in their ranges, with meters, counts and capture as they were. -/
theorem CountsOk.of_arbiters (h : s.CountsOk) (arbiters : ∀ j, (s.arbiters.get j).Ok → (t.arbiters.get j).Ok)
    (meters : t.meters = s.meters) (a : t.discardedA = s.discardedA) (b : t.discardedB = s.discardedB)
    (more : t.moreFaults = s.moreFaults) (capture : t.capture = s.capture) : t.CountsOk := by
  refine ⟨fun j => arbiters j (h.1 j), ?_⟩
  rw [meters, a, b, more, capture]
  exact h.2

/-- Every move keeps the counters, meters and capture in their ranges. -/
theorem countsOk_move (s t : State) (h : s.CountsOk) (m : Move s t) : t.CountsOk := by
  cases m with
  | books b => exact countsOk_books h b
  | link => exact h
  | leave p f _ =>
    refine h.of_arbiters (fun j ok => ?_) (by simp) (by simp) (by simp) (by simp) (by simp)
    simp only [updLink_arbiters, teardown_arbiters, Bank.get_tab]
    exact tornArbiter_ok ok
  | enter p n =>
    refine h.of_arbiters (fun j ok => ?_) rfl rfl rfl rfl rfl
    simp only [updArb_arbiters, updLink_arbiters, Bank.get_upd]
    split <;> exact ok
  | intake => exact h
  | row => exact h
  | mcast => exact h
  | grants => exact h
  | arbiters b keeps _ => exact h.of_arbiters keeps rfl rfl rfl rfl rfl
  | transmit => exact h
  | tables => exact h
  | reset b =>
    have fresh := countsOk_books countsOk_reset b
    exact fresh
  | restart =>
    refine h.of_arbiters (fun j ok => ?_) rfl rfl rfl rfl rfl
    simp only [clearScheduling, Bank.get_tab]
    exact ⟨ok.1, Nat.zero_le _⟩
  | remap e _ => split <;> exact h

/-! ### The state at reset -/

theorem resetOk_reset : State.reset.ResetOk := by
  simp [ResetOk, reset]

theorem steeringOk_reset : State.reset.SteeringOk := by
  simp [SteeringOk, reset]

theorem linksOk_reset : State.reset.LinksOk := by
  intro p
  simp only [reset, Bank.get_fill]
  constructor <;> simp [LinkPort.reset, Tallies.Ok, Tallies.zero]

theorem creditOk_reset : State.reset.CreditOk := by
  intro j
  simp [reset, Arbiter.reset, LinkPort.reset]

theorem records_reset (i : Port) : State.reset.records i = [] := by
  simp [records, reset, GrantList.empty]

theorem transmit_reset (j : Port) : State.reset.transmit.get j = Transmit.empty := by
  simp [reset]

theorem arbiters_reset (j : Port) : State.reset.arbiters.get j = Arbiter.reset := by
  simp [reset]

theorem inFlightOk_reset : State.reset.InFlightOk := by
  intro j
  simp [recordsNaming, records_reset, transmit_reset, arbiters_reset, Transmit.empty, Arbiter.reset]

theorem drainOk_reset : State.reset.DrainOk := by
  refine ⟨fun _ => rfl, fun d => ?_⟩
  have drain : (State.reset.portMap.get d).drain = 0 := by simp [reset, MapEntry.void]
  simp [recordsToward, cellsToward, records_reset, transmit_reset, Transmit.empty, drain]

theorem slotsOk_reset : State.reset.SlotsOk := by
  intro k
  have free : State.reset.slots.get k = .free := by simp [reset]
  refine ⟨?_, ?_, fun j => ?_, ?_⟩
  · simp [recordsReserving, records_reset, free, Slot.isReserved]
  · simp [records_reset]
  · simp [holdings, arbiters_reset, transmit_reset, Arbiter.reset, Transmit.empty, free, Slot.refs]
  · simp [free]

end Sys2Proof.Machine.State

open Sys2Proof.Machine.State in
/-- Settles O4: a move raises a count only up to 63 and only toward a destination that is not VOID, and takes a
destination to VOID only with its counts cleared. -/
theorem stepsKeepRequestMatrixLaw : Obligations.StepsKeepRequestMatrixLaw := by
  unfold Obligations.StepsKeepRequestMatrixLaw
  intro s t h run
  exact law_of_moves matrixOk_move h run

open Sys2Proof.Machine.State in
/-- Settles O10: each of the three laws is kept by every move. -/
theorem stepsKeepQueuesCellsAndCountsInRange : Obligations.StepsKeepQueuesCellsAndCountsInRange := by
  unfold Obligations.StepsKeepQueuesCellsAndCountsInRange
  exact ⟨fun _ _ h run => law_of_moves queuesOk_move h run, fun _ _ h run => law_of_moves cellsOk_move h run,
    fun _ _ h run => law_of_moves countsOk_move h run⟩

open Sys2Proof.Machine.State in
/-- Settles O2, law by law. -/
theorem resetStateMeetsEveryLaw : Obligations.ResetStateMeetsEveryLaw := by
  unfold Obligations.ResetStateMeetsEveryLaw
  exact ⟨resetOk_reset, steeringOk_reset, matrixOk_reset, linksOk_reset, creditOk_reset, idleOk_reset, inFlightOk_reset,
    drainOk_reset, slotsOk_reset, queuesOk_reset, cellsOk_reset, countsOk_reset⟩
end

section
/-! PROOF. Proofs/Arrivals.lean: what arrives on a link port: discarded arrivals, check errors, request words, RESYNC. -/

namespace Sys2Proof.Machine.State

variable {s : State}

/-! ### Arrivals -/

/-- An arrival other than a MARK and a missing frame is received, and does nothing on a port in EXCHANGE unless it is a
failed word or a HELLO. -/
theorem exec_of_arrivesOn {p : Port} {c : Instr} (running : s.held = none) (on : arrivesOn p c) (mark : c ≠ .mark p)
    (framing : c ≠ .framingFailure p) :
    ∃ f g, exec c s = .next (s.receive p f g) ∧ (c ≠ .failedWord p → (∀ n, c ≠ .hello p n) → f = id) := by
  cases c with
  | mark q => exact absurd (congrArg Instr.mark on) mark
  | framingFailure q => exact absurd (congrArg Instr.framingFailure on) framing
  | failedWord q =>
    obtain rfl : q = p := on
    exact ⟨_, _, show execFailedWord _ s = _ from whenRunning_running running _, fun failed => absurd rfl failed⟩
  | hello q n =>
    obtain rfl : q = p := on
    exact ⟨_, _, show execHello _ n s = _ from whenRunning_running running _, fun _ hello => absurd rfl (hello n)⟩
  | request q d c n =>
    obtain rfl : q = p := on
    exact ⟨_, _, show execRequest _ d c n s = _ from whenRunning_running running _, fun _ _ => rfl⟩
  | groupRequest q g c =>
    obtain rfl : q = p := on
    exact ⟨_, _, show execGroupRequest _ g c s = _ from whenRunning_running running _, fun _ _ => rfl⟩
  | resync q =>
    obtain rfl : q = p := on
    exact ⟨_, _, show execResync _ s = _ from whenRunning_running running _, fun _ _ => rfl⟩
  | credit q n =>
    obtain rfl : q = p := on
    exact ⟨_, _, show execCredit _ n s = _ from whenRunning_running running _, fun _ _ => rfl⟩
  | cell q x =>
    obtain rfl : q = p := on
    exact ⟨_, _, show execCell _ x s = _ from whenRunning_running running _, fun _ _ => rfl⟩
  | _ => exact on.elim

/-- A MARK on a port that does not align is a well-framed word without an effect of its own. -/
theorem exec_mark {p : Port} (running : s.held = none) (link : s.link p ≠ .aligning) :
    exec (.mark p) s = .next (s.receive p id id) :=
  show execMark p s = _ from (whenRunning_running running _).trans (congrArg _ (if_neg link))

theorem exec_framingFailure_shut {p : Port} (running : s.held = none)
    (shut : s.link p = .off ∨ s.link p = .dark ∨ s.link p = .faulted) : exec (.framingFailure p) s = .next s := by
  refine (show execFramingFailure p s = _ from whenRunning_running running _).trans (congrArg _ ?_)
  rcases shut with h | h | h <;> simp only [h]

theorem exec_framingFailure_aligning {p : Port} (running : s.held = none) (link : s.link p = .aligning) :
    exec (.framingFailure p) s = .next (s.updLink p fun l => { l with goodMarks := 0 }) := by
  refine (show execFramingFailure p s = _ from whenRunning_running running _).trans (congrArg _ ?_)
  simp only [link]

/-! ### Check errors (R144 to R146) -/

theorem updLink_congr {p : Port} {f g : LinkPort → LinkPort} (h : f (s.links.get p) = g (s.links.get p)) :
    s.updLink p f = s.updLink p g := by
  simp only [updLink, Bank.upd_congr h]

/-- A check error below the threshold is counted; at the threshold the port enters FAULTED. -/
theorem checkError_eq {p : Port} (window : (s.links.get p).window ≠ none) :
    s.checkError p =
      if (s.links.get p).threshold ≤ (s.links.get p).windowCount + 1 then
        (s.updLink p fun l =>
          { l with tallies := l.tallies.addCheckError, windowCount := l.windowCount + 1 }).enterFaulted p
      else s.updLink p fun l => { l with tallies := l.tallies.addCheckError, windowCount := l.windowCount + 1 } := by
  have counted : s.updLink p LinkPort.countError =
      s.updLink p fun l => { l with tallies := l.tallies.addCheckError, windowCount := l.windowCount + 1 } :=
    updLink_congr (by simp only [LinkPort.countError, Option.isSome_iff_ne_none.mpr window, if_true])
  simp only [checkError, counted, updLink_links, Bank.get_upd_self]

theorem exec_failedWord {p : Port} (running : s.held = none) (link : s.link p = .exchange ∨ s.link p = .up) :
    exec (.failedWord p) s = .next ((s.framed p).checkError p) := by
  refine (show execFailedWord p s = _ from whenRunning_running running _).trans (congrArg _ ?_)
  rcases link with h | h
  · rw [receive_exchange h]
  · rw [receive_up h]

/-- A change of a link port that keeps its link state. -/
theorem link_updLink_of_link {p : Port} {f : LinkPort → LinkPort} (h : ∀ l, (f l).link = l.link) (q : Port) :
    (s.updLink p f).link q = s.link q := by
  simp only [link, updLink_links, Bank.get_upd]
  split
  · exact h _
  · rfl

theorem framed_get (s : State) (p : Port) : (s.framed p).links.get p = { s.links.get p with framingRun := 0 } := by
  simp [framed]

/-! ### Request words (R2 to R6) -/

/-- A REQUEST with a count other than 0 and a GROUP REQUEST reach the intake of an UP port. -/
theorem exec_requestWord {p : Port} {w : RequestWord} {c : Instr} (running : s.held = none) (up : s.link p = .up)
    (word : (∃ d cl n, n ≠ 0 ∧ w = .request d cl n ∧ c = .request p d cl n) ∨
      ∃ g cl, w = .group g cl ∧ c = .groupRequest p g cl) :
    exec c s = .next ((s.framed p).intakeWord p w) := by
  rcases word with ⟨d, cl, n, count, rfl, rfl⟩ | ⟨g, cl, rfl, rfl⟩
  · refine (show execRequest p d cl n s = _ from whenRunning_running running _).trans (congrArg _ ?_)
    rw [receive_up up, if_neg count]
  · refine (show execGroupRequest p g cl s = _ from whenRunning_running running _).trans (congrArg _ ?_)
    rw [receive_up up]

theorem overrun_eq {p : Port} (up : s.link p = .up) (w : RequestWord) :
    s.overrun p w =
      ((((s.updIntake p fun q => { q with blocked := true }).updLink p fun l =>
        { l with tallies := l.tallies.addRefused }).raise .requestRefused).offer (.overrun p)).updTx p fun t =>
          { t with words := t.words ++ [.refuse .overrun w.item w.cls w.count] } := by
  unfold overrun
  rw [sendWord_up]
  · rfl
  · simpa [link, accountRefusal] using up

theorem join_eq {p : Port} (up : s.link p = .up) (w : RequestWord) :
    s.join p w =
      if 12 ≤ (s.intakes.get p).queue.length + 1 ∧ (s.links.get p).holdEnable = true ∧ (s.intakes.get p).hold = false then
        (s.updIntake p fun q => { q with queue := q.queue ++ [w], hold := true }).updTx p fun t =>
          { t with words := t.words ++ [.hold] }
      else s.updIntake p fun q => { q with queue := q.queue ++ [w] } := by
  simp only [join, updIntake_intakes, Bank.get_upd_self, List.length_append, List.length_singleton,
    Bool.not_eq_true']
  split
  · rw [sendWord_up (by simpa [link] using up)]
    simp only [updIntake, Bank.upd_upd]
  · rfl

/-- The port stays UP and its intake as it is when the framing run is set to 0. -/
theorem framed_up {p : Port} (up : s.link p = .up) : (s.framed p).link p = .up := (link_framed s p p).trans up

/-! ### RESYNC (R8) -/

/-- A word sent on a port that is UP in a state with the same link ports. -/
theorem sendWord_of_links {u : State} {p : Port} (up : s.link p = .up) (links : u.links = s.links) (w : DownWord) :
    u.sendWord p w = u.updTx p fun t => { t with words := t.words ++ [w] } :=
  sendWord_up (by rw [link, links]; exact up) w

theorem resynced_eq {p : Port} (up : s.link p = .up) :
    s.resynced p =
      { s with
        intakes := s.intakes.set p Intake.idle
        matrix := s.matrix.set p Row.zero
        mcastQueues := s.mcastQueues.set p []
        transmit := s.transmit.upd p fun t =>
          { t with words := t.words ++ (if (s.intakes.get p).hold then [.resume, .synced] else [.synced]) } } := by
  unfold resynced
  cases hold : (s.intakes.get p).hold with
  | false =>
    simp only [Bool.false_eq_true, if_false]
    exact sendWord_of_links up (by rfl) _
  | true =>
    simp only [if_true]
    rw [sendWord_up up]
    refine (sendWord_of_links up (by rfl) _).trans ?_
    simp only [updTx, Bank.upd_upd, List.append_assoc, List.cons_append, List.nil_append]

end Sys2Proof.Machine.State

section
open Sys2Proof Sys2Proof.Machine Sys2Proof.Machine.State

/-- Settles O20, by the kind of the arrival: a MARK, a missing frame, or a word or cell that is received. -/
theorem arrivalsNotActedOnAreDiscarded : Obligations.ArrivalsNotActedOnAreDiscarded := by
  unfold Obligations.ArrivalsNotActedOnAreDiscarded
  intro p c s running on
  have received := @exec_of_arrivesOn s p c running on
  refine ⟨fun shut => ?_, fun aligning mark => ?_, fun exchange framing failed hello => ?_, fun up => ?_⟩
  · by_cases mark : c = .mark p
    · have link : s.link p ≠ .aligning := by rcases shut with h | h | h <;> simp [h]
      rw [mark, exec_mark running link, receive_shut shut]
    · by_cases framing : c = .framingFailure p
      · rw [framing, exec_framingFailure_shut running shut]
      · obtain ⟨f, g, run, -⟩ := received mark framing
        rw [run, receive_shut shut]
  · by_cases framing : c = .framingFailure p
    · rw [framing, exec_framingFailure_aligning running aligning]
    · obtain ⟨f, g, run, -⟩ := received mark framing
      rw [run, receive_aligning aligning]
  · by_cases mark : c = .mark p
    · rw [mark, exec_mark running (by simp [exchange]), receive_exchange exchange, id]
    · obtain ⟨f, g, run, discards⟩ := received mark framing
      rw [run, receive_exchange exchange, discards failed hello, id]
  · rw [exec_mark running (by simp [up]), receive_up up, id]

/-- Settles O22: a failed word is a check error on the framed port, which faults at the threshold; the three check
errors of an UP port reach the same operation. -/
theorem checkErrorsCountAndFaultThePort : Obligations.CheckErrorsCountAndFaultThePort := by
  unfold Obligations.CheckErrorsCountAndFaultThePort
  refine ⟨fun p s running link window => ?_, fun p s running up => ⟨fun d c => ?_, fun n range => ?_, fun x range => ?_⟩⟩
  · have framed : ((s.framed p).links.get p).window ≠ none := by rw [framed_get]; exact window
    have state : ∀ q, ((s.framed p).updLink p fun l =>
        { l with tallies := l.tallies.addCheckError, windowCount := l.windowCount + 1 }).link q = s.link q := fun q =>
      (link_updLink_of_link (by intro; rfl) q).trans (link_framed s p q)
    rw [exec_failedWord running link, checkError_eq framed, framed_get]
    refine ⟨fun below => ?_, fun reached exchange => ?_, fun reached up => ?_⟩
    · exact congrArg _ (if_neg (Nat.not_le.mpr below))
    · have down : isUp _ p = false := Bool.eq_false_iff.mpr fun up => by
        rw [isUp_iff, state, exchange] at up; cases up
      refine congrArg _ ((if_pos reached).trans ?_)
      rw [enterFaulted, down]
      rfl
    · have isUp : isUp _ p = true := (isUp_iff _ p).mpr ((state p).trans up)
      refine congrArg _ ((if_pos reached).trans ?_)
      rw [enterFaulted, isUp]
      rfl
  · rw [exec_failedWord running (.inr up)]
    refine (show execRequest p d c 0 s = _ from whenRunning_running running _).trans (congrArg _ ?_)
    rw [receive_up up, if_pos rfl]
  · rw [exec_failedWord running (.inr up)]
    refine (show execCredit p n s = _ from whenRunning_running running _).trans (congrArg _ ?_)
    rw [receive_up up, if_pos range]
  · rw [exec_failedWord running (.inr up)]
    refine (show execCell p x s = _ from whenRunning_running running _).trans (congrArg _ ?_)
    rw [receive_up up, if_pos range]

/-- Settles O26: the word reaches the intake of the framed port, which refuses or takes it. -/
theorem requestWordsJoinOrAreRefusedOverrun : Obligations.RequestWordsJoinOrAreRefusedOverrun := by
  unfold Obligations.RequestWordsJoinOrAreRefusedOverrun
  intro p w c s running up word
  have enable : ((s.framed p).links.get p).holdEnable = (s.links.get p).holdEnable := by rw [framed_get]
  have intake : (s.framed p).intakes = s.intakes := rfl
  rw [exec_requestWord running up word]
  refine ⟨fun full => ?_, fun unblocked space => ?_⟩
  · rw [intakeWord, if_pos (by simpa only [intake, intakeLimit] using full), overrun_eq (framed_up up)]
  · have joins : (s.framed p).intakeWord p w = (s.framed p).join p w := by
      rw [intakeWord, if_neg]
      rw [intake, unblocked]
      simp only [Bool.false_eq_true, false_or, intakeLimit, Nat.not_le]
      exact space
    rw [joins, join_eq (framed_up up), intake, enable]
    refine ⟨fun twelve enabled free => ?_, fun quiet => ?_⟩
    · rw [if_pos ⟨twelve, enabled, free⟩]
    · rw [if_neg]
      rintro ⟨twelve, enabled, free⟩
      rcases quiet with few | off | held
      · omega
      · rw [enabled] at off; cases off
      · rw [free] at held; cases held

/-- Settles O27. -/
theorem resyncEmptiesTheRowAndAnswersSynced : Obligations.ResyncEmptiesTheRowAndAnswersSynced := by
  unfold Obligations.ResyncEmptiesTheRowAndAnswersSynced
  intro p s running up
  refine (show execResync p s = _ from whenRunning_running running _).trans (congrArg _ ?_)
  rw [receive_up up, resynced_eq (framed_up up)]
  rfl

end
end

section
/-! PROOF. Proofs/Transmitter.lean: what a transmitter sends, by its words, its queue and its link state. -/

namespace Sys2Proof.Machine.State

variable {s : State} {j : Port}

/-! ### CONTROL_WORD_TRANSMISSION -/

theorem exec_controlWord_waiting (running : s.held = none) {w : DownWord} {ws : List DownWord}
    (waiting : (s.transmit.get j).words = w :: ws) :
    exec (.controlWordTransmission j) s = .next
      (if s.isUp j && !(s.transmit.get j).sending then (s.updTx j fun t => { t with words := ws }).emit (.word j w)
      else s) := by
  refine (show execControlWordTransmission j s = _ from whenRunning_running running _).trans (congrArg _ ?_)
  simp only [waiting]

theorem exec_controlWord_idle (running : s.held = none) (idle : (s.transmit.get j).words = []) :
    exec (.controlWordTransmission j) s = .next (if s.fillWord j = some .mark then s.emit (.word j .mark) else s) := by
  refine (show execControlWordTransmission j s = _ from whenRunning_running running _).trans (congrArg _ ?_)
  simp only [idle, sendFill_eq]

/-- A CONTROL_WORD_TRANSMISSION does nothing where neither a word can be sent nor fill. -/
theorem exec_controlWord_none (running : s.held = none)
    (busy : s.link j = .up →
      (s.transmit.get j).sending = true ∨ (s.transmit.get j).words = [] ∧ (s.transmit.get j).queue ≠ [])
    (noFill : s.link j ≠ .aligning ∧ s.link j ≠ .exchange) : exec (.controlWordTransmission j) s = .next s := by
  cases words : (s.transmit.get j).words with
  | nil =>
    rw [exec_controlWord_idle running words, if_neg]
    rw [fillWord_eq_some]
    rintro ⟨-, -, aligning | exchange | ⟨up, -, empty, free⟩⟩
    · exact noFill.1 aligning
    · exact noFill.2 exchange
    · rcases busy up with sending | ⟨-, queue⟩
      · rw [free] at sending; cases sending
      · exact queue empty
  | cons w ws =>
    rw [exec_controlWord_waiting running words, if_neg]
    simp only [Bool.and_eq_true, Bool.not_eq_true', not_and, isUp_iff]
    intro up
    rcases busy up with sending | ⟨none, -⟩
    · simp [sending]
    · rw [words] at none; cases none

/-! ### TRANSMISSION_START -/

theorem exec_transmissionStart (running : s.held = none) {x : DownCell} (head : s.headCell j = some x) :
    exec (.transmissionStart j) s = .next
      (if s.isUp j && !(s.transmit.get j).sending && (s.transmit.get j).words.isEmpty then
        (s.updTx j fun t => { t with sending := true }).emit (.cellStart j x)
      else s) := by
  refine (show execTransmissionStart j s = _ from whenRunning_running running _).trans (congrArg _ ?_)
  simp only [head]

/-- The free transmitter of an UP port with no word waiting begins the head entry. -/
theorem exec_transmissionStart_free (running : s.held = none) (up : s.link j = .up)
    (free : (s.transmit.get j).sending = false) (idle : (s.transmit.get j).words = []) {x : DownCell}
    (head : s.headCell j = some x) :
    exec (.transmissionStart j) s = .next ((s.updTx j fun t => { t with sending := true }).emit (.cellStart j x)) := by
  rw [exec_transmissionStart running head, if_pos]
  simp [(isUp_iff s j).mpr up, free, idle]

/-- No cell begins on a port that is not UP, during a cell, while words wait, or with an empty queue. -/
theorem exec_transmissionStart_none (running : s.held = none)
    (shut : s.link j ≠ .up ∨ (s.transmit.get j).sending = true ∨ (s.transmit.get j).words ≠ [] ∨
      (s.transmit.get j).queue = []) : exec (.transmissionStart j) s = .next s := by
  cases head : s.headCell j with
  | none =>
    refine (show execTransmissionStart j s = _ from whenRunning_running running _).trans (congrArg _ ?_)
    simp only [head]
  | some x =>
    rw [exec_transmissionStart running head, if_neg]
    simp only [Bool.and_eq_true, Bool.not_eq_true', isUp_iff, List.isEmpty_iff]
    rintro ⟨⟨up, free⟩, idle⟩
    rcases shut with down | sending | words | empty
    · exact down up
    · rw [free] at sending; cases sending
    · exact words idle
    · simp [headCell, empty] at head

end Sys2Proof.Machine.State

section
open Sys2Proof Sys2Proof.Machine Sys2Proof.Machine.State

/-- Settles O44, by the link state, and on an UP port by what waits and whether a cell is in transmission. -/
theorem transmitterSendsWordsBeforeCells : Obligations.TransmitterSendsWordsBeforeCells := by
  unfold Obligations.TransmitterSendsWordsBeforeCells
  intro s j running
  refine ⟨fun up => ⟨fun free => ⟨fun w ws waiting => ?_, fun idle => ⟨fun src c d x es queue => ?_,
    fun k src g c x refs es queue slot => ?_, fun empty => ?_⟩⟩, fun idle queue => ?_, fun shut => ?_, fun sending => ?_⟩,
    fun link idle => ?_, fun link => ?_, fun down => exec_transmissionStart_none running (.inl down)⟩
  · rw [exec_controlWord_waiting running waiting, if_pos]
    simp [(isUp_iff s j).mpr up, free]
  · exact exec_transmissionStart_free running up free idle (by simp [headCell, queue])
  · exact exec_transmissionStart_free running up free idle (by simp [headCell, queue, slot])
  · rw [exec_controlWord_idle running idle, if_pos]
    exact (fillWord_eq_some s j .mark).mpr ⟨rfl, running, .inr (.inr ⟨up, idle, empty, free⟩)⟩
  · exact exec_controlWord_none running (fun _ => .inr ⟨idle, queue⟩) (by simp [up])
  · exact exec_transmissionStart_none running (.inr (.inr shut))
  · exact ⟨exec_controlWord_none running (fun _ => .inl sending) (by simp [up]),
      exec_transmissionStart_none running (.inr (.inl sending))⟩
  · rw [exec_controlWord_idle running idle, if_pos]
    exact (fillWord_eq_some s j .mark).mpr ⟨rfl, running, link.imp_right .inl⟩
  · rcases link with h | h | h
    all_goals exact exec_controlWord_none running (fun up => by rw [h] at up; cases up) (by simp [h])

end
end

section
/-! PROOF. Proofs/Absorption.lean: what one absorption changes, and that a waiting port is served in its turn. -/

namespace Sys2Proof.Machine.State

variable {s : State} {i : Port} {w : RequestWord} {rest : List RequestWord}

/-! ### The words of one absorption (R7, R12) -/

@[simp] theorem sendBoth_intakes (s : State) (i : Port) (w : Option DownWord) (b : Bool) :
    (s.sendBoth i w b).intakes = s.intakes := by
  unfold sendBoth
  split
  · rfl
  · exact sendWord_intakes s i _
  · exact sendWord_intakes s i _
  · split <;> simp

@[simp] theorem sendBoth_absorbPtr (s : State) (i : Port) (w : Option DownWord) (b : Bool) :
    (s.sendBoth i w b).absorbPtr = s.absorbPtr := by
  unfold sendBoth
  split
  · rfl
  · exact sendWord_absorbPtr s i _
  · exact sendWord_absorbPtr s i _
  · split <;> simp

@[simp] theorem sendBoth_held (s : State) (i : Port) (w : Option DownWord) (b : Bool) :
    (s.sendBoth i w b).held = s.held := by
  unfold sendBoth
  split
  · rfl
  · exact sendWord_held s i _
  · exact sendWord_held s i _
  · split <;> simp

/-- On an UP port the REFUSE and the RESUME join the waiting words, in an order that is open. -/
theorem sendBoth_up (up : s.link i = .up) (w : Option DownWord) (b : Bool) :
    ∃ ws : List DownWord, ws.Perm (w.toList ++ if b then [.resume] else []) ∧
      s.sendBoth i w b = { s with
        transmit := s.transmit.upd i fun x => { x with words := x.words ++ ws }
        freeCount := (s.sendBoth i w b).freeCount } := by
  have two : ∀ x y : DownWord, ({ s with freeCount := s.freeCount + 1 }.sendWord i x).sendWord i y =
      { s with
        transmit := s.transmit.upd i fun t => { t with words := t.words ++ [x, y] }
        freeCount := s.freeCount + 1 } := by
    intro x y
    rw [sendWord_of_links up (u := { s with freeCount := s.freeCount + 1 }) (by rfl) x]
    refine (sendWord_of_links up (by rfl) y).trans ?_
    simp only [updTx, Bank.upd_upd, List.append_assoc, List.cons_append, List.nil_append]
  cases w with
  | none =>
    cases b with
    | false =>
      have same : s.transmit.upd i (fun x => { x with words := x.words ++ [] }) = s.transmit :=
        Bank.upd_eq_self (by simp)
      exact ⟨[], .refl _, by rw [same]; rfl⟩
    | true => exact ⟨[.resume], .refl _, by simp only [sendBoth, sendWord_up up, updTx]⟩
  | some x =>
    cases b with
    | false => exact ⟨[x], .refl _, by simp only [sendBoth, sendWord_up up, updTx]⟩
    | true =>
      by_cases first : Config.refuseFirst s.freeCount = true
      · exact ⟨[x, .resume], .refl _, by simp only [sendBoth, if_pos first, two]⟩
      · exact ⟨[.resume, x], .swap _ _ _, by simp only [sendBoth, if_neg first, two]⟩

/-! ### The effect of one absorption -/

/-- An absorbed word changes the matrix or the multicast request queues alone. -/
theorem absorbWord_frame (s : State) (i : Port) (w : RequestWord) :
    (s.absorbWord i w).1 =
      { s with matrix := (s.absorbWord i w).1.matrix, mcastQueues := (s.absorbWord i w).1.mcastQueues } := by
  cases w with
  | request d c n =>
    simp only [absorbWord, absorbRequest]
    split
    · rfl
    · split <;> rfl
  | group g c =>
    simp only [absorbWord, absorbGroup]
    split
    · rfl
    · split <;> rfl

/-- One absorption before its words are sent: the word's effect and its accounting, the queue and the pointer; a hold is
ended when 4 words are left (R7, R11 to R14). -/
def taken (s : State) (i : Port) (w : RequestWord) (rest : List RequestWord) : State :=
  { (if (s.absorbWord i w).2 = none then s else s.accountRefusal i) with
    intakes := s.intakes.upd i fun q => { q with queue := rest, hold := q.hold && !(rest.length == 4) }
    absorbPtr := i + 1
    matrix := (s.absorbWord i w).1.matrix
    mcastQueues := (s.absorbWord i w).1.mcastQueues }

theorem absorb_eq_taken (s : State) (i : Port) (w : RequestWord) (rest : List RequestWord) :
    s.absorb i w rest =
      (s.taken i w rest).sendBoth i (s.absorbWord i w).2 ((s.intakes.get i).hold && rest.length == 4) := by
  have absorbed : s.absorbed i w rest =
      { (if (s.absorbWord i w).2 = none then s else s.accountRefusal i) with
        intakes := s.intakes.upd i fun q => { q with queue := rest }
        absorbPtr := i + 1
        matrix := (s.absorbWord i w).1.matrix
        mcastQueues := (s.absorbWord i w).1.mcastQueues } := by
    unfold State.absorbed
    rw [absorbWord_frame s i w]
    cases (s.absorbWord i w).2 <;> rfl
  have queue : ∀ b : Bool, ((s.intakes.get i).hold && rest.length == 4) = b →
      (s.intakes.upd i fun q => { q with queue := rest, hold := q.hold && !(rest.length == 4) }) =
        s.intakes.upd i fun q => { q with queue := rest, hold := if b then false else q.hold } := by
    rintro b rfl
    refine Bank.upd_congr ?_
    cases (s.intakes.get i).hold <;> cases rest.length == 4 <;> rfl
  rw [absorb_eq, absorbed, taken]
  cases resumes : (s.intakes.get i).hold && rest.length == 4 with
  | false => rw [queue _ resumes]; rfl
  | true => rw [queue _ resumes, if_pos rfl, updIntake, Bank.upd_upd]; rfl

theorem absorb_intakes (s : State) (i : Port) (w : RequestWord) (rest : List RequestWord) :
    (s.absorb i w rest).intakes =
      s.intakes.upd i fun q => { q with queue := rest, hold := q.hold && !(rest.length == 4) } := by
  rw [absorb_eq_taken, sendBoth_intakes, taken]

theorem absorb_absorbPtr (s : State) (i : Port) (w : RequestWord) (rest : List RequestWord) :
    (s.absorb i w rest).absorbPtr = i + 1 := by
  rw [absorb_eq_taken, sendBoth_absorbPtr, taken]

theorem absorb_held (s : State) (i : Port) (w : RequestWord) (rest : List RequestWord) :
    (s.absorb i w rest).held = s.held := by
  rw [absorb_eq_taken, sendBoth_held, taken]
  cases (s.absorbWord i w).2 <;> rfl

/-- One absorption from an UP port, whole. -/
theorem absorb_frame (up : s.link i = .up) (w : RequestWord) (rest : List RequestWord) :
    ∃ ws : List DownWord,
      ws.Perm ((s.absorbWord i w).2.toList ++ if (s.intakes.get i).hold && rest.length == 4 then [.resume] else []) ∧
      s.absorb i w rest =
        { s.taken i w rest with
          transmit := s.transmit.upd i fun x => { x with words := x.words ++ ws }
          freeCount := (s.absorb i w rest).freeCount } := by
  have link : (s.taken i w rest).link i = .up := by
    unfold taken
    cases (s.absorbWord i w).2
    · exact up
    · exact (link_updLink_of_link (by intro; rfl) i).trans up
  have transmit : (s.taken i w rest).transmit = s.transmit := by
    unfold taken
    cases (s.absorbWord i w).2 <;> rfl
  obtain ⟨ws, perm, sent⟩ := sendBoth_up link (s.absorbWord i w).2 ((s.intakes.get i).hold && rest.length == 4)
  rw [transmit] at sent
  rw [absorb_eq_taken]
  exact ⟨ws, perm, sent⟩

/-! ### The turn of a port (R11) -/

theorem exec_absorption (running : s.held = none) (next : s.nextServed = some i)
    (queue : (s.intakes.get i).queue = w :: rest) : exec .absorption s = .next (s.absorb i w rest) := by
  refine (show execAbsorption s = _ from whenRunning_running running _).trans (congrArg _ ?_)
  simp only [next, queue]

theorem exec_absorption_empty (running : s.held = none) (empty : ∀ p, (s.intakes.get p).queue = []) :
    exec .absorption s = .next s := by
  have next : s.nextServed = none := by simp [nextServed, empty]
  refine (show execAbsorption s = _ from whenRunning_running running _).trans (congrArg _ ?_)
  simp only [next]

/-- The first port, in cyclic order from the pointer, whose queue is not empty is served. -/
theorem nextServed_eq {m : Port} (before : ∀ k : Port, k < m → (s.intakes.get (s.absorbPtr + k)).queue = [])
    (here : (s.intakes.get (s.absorbPtr + m)).queue ≠ []) : s.nextServed = some (s.absorbPtr + m) :=
  find?_cyclic (fun k hk => by simp [before k hk]) (by simpa using here)

theorem first_waiting {p : Port} (waiting : (s.intakes.get p).queue ≠ []) :
    ∃ m : Port, m ≤ p - s.absorbPtr ∧ (s.intakes.get (s.absorbPtr + m)).queue ≠ [] ∧
      ∀ k : Port, k < m → (s.intakes.get (s.absorbPtr + k)).queue = [] := by
  have mem : (s.intakes.get (s.absorbPtr + (p - s.absorbPtr))).queue ≠ [] := by
    rw [add_sub_cancel]; exact waiting
  obtain ⟨m, hm, least⟩ := (wellFounded_lt (α := Port)).has_min
    { m | (s.intakes.get (s.absorbPtr + m)).queue ≠ [] } ⟨p - s.absorbPtr, mem⟩
  exact ⟨m, not_lt.mp (least _ mem), hm, fun k hk => of_not_not fun h => least k h hk⟩

/-- When the port `ptr + m` before `p` is served, `p` comes nearer. -/
theorem distance_lt {ptr p m : Port} (h : m < p - ptr) : (p - (ptr + m + 1)).val < (p - ptr).val := by
  have step : p - (ptr + m + 1) = p - ptr - (m + 1) := by rw [add_assoc, sub_sub]
  rw [step]
  generalize p - ptr = d at h ⊢
  rw [Fin.lt_def] at h
  have succ : (m + 1).val = m.val + 1 := Fin.val_add_one_of_lt' (by omega)
  rw [Fin.sub_val_of_le (by rw [Fin.le_def, succ]; exact h), succ]
  omega

/-- A waiting port is served after no more absorptions than it stands behind the pointer. -/
theorem served_within (p : Port) (d : Nat) : ∀ s : State, s.held = none → (s.intakes.get p).queue ≠ [] →
    (p - s.absorbPtr).val = d →
    ∃ n, n ≤ d ∧ (s.afterAbsorptions n).intakes.get p = s.intakes.get p ∧
      ((s.afterAbsorptions (n + 1)).intakes.get p).queue = (s.intakes.get p).queue.tail := by
  induction d using Nat.strong_induction_on with
  | _ d ih =>
    intro s running waiting distance
    obtain ⟨m, le, here, before⟩ := first_waiting waiting
    have next := nextServed_eq before here
    obtain ⟨w, rest, queue⟩ := List.exists_cons_of_ne_nil here
    have run := exec_absorption running next queue
    have after : ∀ n, s.afterAbsorptions (n + 1) = (s.absorb (s.absorbPtr + m) w rest).afterAbsorptions n := fun n => by
      simp only [afterAbsorptions, run]
    by_cases turn : m = p - s.absorbPtr
    · have port : s.absorbPtr + m = p := by rw [turn, add_sub_cancel]
      rw [port] at queue after
      refine ⟨0, Nat.zero_le _, rfl, ?_⟩
      rw [after, afterAbsorptions, absorb_intakes, Bank.get_upd_self, queue, List.tail_cons]
    · have lt : m < p - s.absorbPtr := lt_of_le_of_ne le turn
      have other : s.absorbPtr + m ≠ p := fun e => turn (by rw [← e, add_sub_cancel_left])
      have kept : (s.absorb (s.absorbPtr + m) w rest).intakes.get p = s.intakes.get p := by
        rw [absorb_intakes, Bank.get_upd_ne _ other]
      have nearer := distance_lt lt
      rw [← absorb_absorbPtr s (s.absorbPtr + m) w rest] at nearer
      obtain ⟨n, hn, same, served⟩ := ih _ (distance ▸ nearer) _ ((absorb_held s _ w rest).trans running)
        (by rw [kept]; exact waiting) rfl
      refine ⟨n + 1, ?_, ?_, ?_⟩
      · omega
      · rw [after, same, kept]
      · rw [after, served, kept]

/-! ### The absorption of a REQUEST (R13) -/

theorem absorbRequest_void {d : Dest} (void : (s.mapEntry d).map = .void) (i : Port) (c : Cls) (n : Nat) :
    s.absorbRequest i d c n = (s, some (.refuse .noRoute (.request d) c n)) := if_pos void

theorem absorbRequest_above {i : Port} {d : Dest} {c : Cls} {n : Nat} (route : (s.mapEntry d).map ≠ .void)
    (above : 63 < s.count i d c + n) :
    s.absorbRequest i d c n =
      (s.setCount i d c 63, some (.refuse .ceiling (.request d) c (s.count i d c + n - 63))) :=
  (if_neg route).trans (if_pos above)

theorem absorbRequest_within {i : Port} {d : Dest} {c : Cls} {n : Nat} (route : (s.mapEntry d).map ≠ .void)
    (within : ¬ 63 < s.count i d c + n) :
    s.absorbRequest i d c n = (s.setCount i d c (s.count i d c + n), none) :=
  (if_neg route).trans (if_neg within)

/-- The REFUSE of an absorbed REQUEST, by R13's table. -/
theorem absorbRequest_refusal (s : State) (i : Port) (d : Dest) (c : Cls) (n : Nat) :
    (s.absorbRequest i d c n).2.toList =
      if (s.mapEntry d).map = .void then [.refuse .noRoute (.request d) c n]
      else if 63 < s.count i d c + n then [.refuse .ceiling (.request d) c (s.count i d c + n - 63)] else [] := by
  split
  · next void => rw [absorbRequest_void void]; rfl
  · next route =>
    split
    · next above => rw [absorbRequest_above route above]; rfl
    · next within => rw [absorbRequest_within route within]; rfl

theorem count_setCount (s : State) (i i' : Port) (d d' : Dest) (c c' : Cls) (n : Nat) :
    (s.setCount i d c n).count i' d' c' = if i' = i ∧ d' = d ∧ c' = c then n else s.count i' d' c' := by
  simp only [count, setCount_matrix, Bank.get_upd, eq_comm (a := i'), eq_comm (a := d'), eq_comm (a := c')]
  by_cases hi : i = i'
  · subst hi
    by_cases hd : d = d'
    · subst hd
      by_cases hc : c = c' <;> simp [hc]
    · simp [hd]
  · simp [hi]

/-- The count after an absorbed REQUEST: kept toward a VOID destination, else raised, at most to 63. -/
theorem absorbRequest_count (s : State) (i i' : Port) (d d' : Dest) (c c' : Cls) (n : Nat) :
    (s.absorbRequest i d c n).1.count i' d' c' =
      if i' = i ∧ d' = d ∧ c' = c then
        (if (s.mapEntry d).map = .void then s.count i d c else min 63 (s.count i d c + n))
      else s.count i' d' c' := by
  by_cases void : (s.mapEntry d).map = .void
  · rw [absorbRequest_void void, if_pos void]
    split
    · next same => obtain ⟨rfl, rfl, rfl⟩ := same; rfl
    · rfl
  · rw [if_neg void]
    by_cases above : 63 < s.count i d c + n
    · rw [absorbRequest_above void above, count_setCount, Nat.min_eq_left (Nat.le_of_lt above)]
    · rw [absorbRequest_within void above, count_setCount, Nat.min_eq_right (Nat.not_lt.mp above)]

/-- An absorbed REQUEST does not touch the multicast request queues. -/
theorem absorbRequest_mcastQueues (s : State) (i : Port) (d : Dest) (c : Cls) (n : Nat) :
    (s.absorbRequest i d c n).1.mcastQueues = s.mcastQueues := by
  unfold absorbRequest
  split
  · rfl
  · split <;> rfl

end Sys2Proof.Machine.State

section
open Sys2Proof Sys2Proof.Machine Sys2Proof.Machine.State

/-- Settles O28: the port behind the pointer is found by the cyclic search, and each absorption before a port's turn
brings the pointer nearer to it. -/
theorem absorptionServesWaitingPortsInTurn : Obligations.AbsorptionServesWaitingPortsInTurn := by
  unfold Obligations.AbsorptionServesWaitingPortsInTurn
  refine ⟨fun s running => ⟨exec_absorption_empty running, fun m w rest before queue => ?_⟩, fun s p running waiting => ?_⟩
  · have next := nextServed_eq before (by rw [queue]; exact List.cons_ne_nil _ _)
    refine ⟨_, exec_absorption running next queue, absorb_absorbPtr _ _ _ _, ?_, fun p other => ?_⟩
    · rw [absorb_intakes, Bank.get_upd_self]
    · rw [absorb_intakes, Bank.get_upd_ne _ other.symm]
  · obtain ⟨n, hn, same, served⟩ := served_within p _ s running waiting rfl
    exact ⟨n, hn.trans_lt (p - s.absorbPtr).isLt, same, served⟩

/-- Settles O29: the whole absorption, with R13's table for the word. -/
theorem absorbedRequestsRaiseTheCountOrAreRefused : Obligations.AbsorbedRequestsRaiseTheCountOrAreRefused := by
  unfold Obligations.AbsorbedRequestsRaiseTheCountOrAreRefused
  intro s i d c n rest running next queue up before isVoid refusal resume
  obtain ⟨ws, perm, whole⟩ := absorb_frame up (.request d c n) rest
  have refused : (s.absorbWord i (.request d c n)).2.toList = refusal := absorbRequest_refusal s i d c n.val
  have resumed : (if (s.intakes.get i).hold && rest.length == 4 then [DownWord.resume] else []) = resume := by
    simp only [resume, Bool.and_eq_true, beq_iff_eq]
  have none_iff : (s.absorbWord i (.request d c n)).2 = none ↔ refusal = [] := by
    rw [← refused]; cases (s.absorbWord i (.request d c n)).2 <;> simp
  refine ⟨s.absorb i (.request d c n) rest, ws, exec_absorption running next queue, ?_, fun i' d' c' => ?_, ?_⟩
  · rw [← refused, ← resumed]; exact perm
  · have matrix : (s.absorb i (.request d c n) rest).matrix = (s.absorbRequest i d c n.val).1.matrix := by rw [whole]; rfl
    rw [count, matrix]
    exact absorbRequest_count s i i' d d' c c' n.val
  · have mcast : (s.absorbWord i (.request d c n)).1.mcastQueues = s.mcastQueues :=
      absorbRequest_mcastQueues s i d c n.val
    have hold : (s.intakes.upd i fun q => { q with queue := rest, hold := q.hold && !(rest.length == 4) }) =
        s.intakes.upd i fun q => { q with queue := rest, hold := q.hold && decide (resume = []) } := by
      refine Bank.upd_congr ?_
      rw [← resumed]
      cases (s.intakes.get i).hold <;> cases rest.length == 4 <;> simp
    have matrix : (s.absorb i (.request d c n) rest).matrix = (s.absorbWord i (.request d c n)).1.matrix := by rw [whole]; rfl
    rw [matrix, ← hold]
    refine whole.trans ?_
    rw [taken, mcast]
    by_cases empty : refusal = []
    · rw [if_pos empty, if_pos (none_iff.mpr empty)]
    · rw [if_neg empty, if_neg (empty ∘ none_iff.mp)]
      rfl

end
end

section
/-! PROOF. Proofs/Commit.lean: COMMIT MAP, entry by entry and then as a whole (R34, R35, R17). -/

namespace Sys2Proof.Machine.State

variable {s t : State}

/-- Whether the commit of the staged entry `e` sends WITHDRAWN to ingress `i`: it takes a destination to VOID toward
which the UP port `i` holds a count (R17, R35). -/
def withdrawsAt (s : State) (i : Port) (e : StagedEntry) : Bool :=
  decide (e.map = .void ∧ (s.portMap.get e.dest).map ≠ .void ∧ s.link i = .up ∧ ∃ c, s.count i e.dest c ≠ 0)

/-- The destinations of which ingress `i` is sent WITHDRAWN when the entries `es` are committed, in list order. -/
def withdrawnAt (s : State) (i : Port) (es : List StagedEntry) : List Dest :=
  (es.filter (s.withdrawsAt i)).map StagedEntry.dest

theorem mapEntry_ready (ready : s.tablesReady = true) (d : Dest) : s.mapEntry d = s.portMap.get d := if_pos ready

theorem mem_withdrawTargets (s : State) (d : Dest) (i : Port) :
    i ∈ s.withdrawTargets d ↔ s.link i = .up ∧ ∃ c, s.count i d c ≠ 0 := by
  simp [withdrawTargets, isUp_iff]

/-! ### One word sent to several ports -/

/-- Words sent to ports change waiting words alone. -/
theorem sendWords_frame (s : State) (w : DownWord) (ps : List Port) :
    ps.foldl (fun t p => t.sendWord p w) s =
      { s with transmit := (ps.foldl (fun t p => t.sendWord p w) s).transmit } := by
  induction ps generalizing s with
  | nil => rfl
  | cons p ps ih =>
    rw [List.foldl_cons, ih (s.sendWord p w)]
    simp

theorem sendWords_transmit (s : State) (w : DownWord) (ps : List Port) (nodup : ps.Nodup) (up : ∀ p ∈ ps, s.link p = .up)
    (i : Port) :
    (ps.foldl (fun t p => t.sendWord p w) s).transmit.get i =
      { s.transmit.get i with words := (s.transmit.get i).words ++ if i ∈ ps then [w] else [] } := by
  induction ps generalizing s with
  | nil => simp
  | cons p ps ih =>
    obtain ⟨fresh, nodup⟩ := List.nodup_cons.mp nodup
    have link : ∀ q, (s.sendWord p w).link q = s.link q := fun q => by rw [link, link, sendWord_links]
    rw [List.foldl_cons, ih _ nodup fun q hq => (link q).trans (up q (List.mem_cons_of_mem p hq)),
      sendWord_up (up p List.mem_cons_self), updTx_transmit, Bank.get_upd]
    by_cases hi : p = i
    · subst hi; simp [fresh]
    · simp [hi, Ne.symm hi]

/-! ### One staged entry -/

/-- The state with one entry in the Port Map, and its counts cleared when it takes a destination to VOID. -/
theorem applyStaged_withdraws (ready : s.tablesReady = true) {e : StagedEntry}
    (taken : (s.portMap.get e.dest).map ≠ .void ∧ e.map = .void) :
    s.applyStaged e = (s.updEntry e.dest fun x => { x with map := e.map }).withdraw e.dest := by
  rw [applyStaged, mapEntry_ready ready]
  exact if_pos taken

theorem applyStaged_keeps (ready : s.tablesReady = true) {e : StagedEntry}
    (kept : ¬((s.portMap.get e.dest).map ≠ .void ∧ e.map = .void)) :
    s.applyStaged e = s.updEntry e.dest fun x => { x with map := e.map } := by
  rw [applyStaged, mapEntry_ready ready]
  exact if_neg kept

theorem applyStaged_frame (s : State) (e : StagedEntry) :
    s.applyStaged e =
      { s with
        portMap := s.portMap.upd e.dest fun x => { x with map := e.map }
        matrix := (s.applyStaged e).matrix
        transmit := (s.applyStaged e).transmit } := by
  unfold applyStaged
  simp only
  split
  · rw [withdraw, sendWords_frame]
    rfl
  · rfl

theorem applyStaged_count (ready : s.tablesReady = true) (e : StagedEntry) (i : Port) (d : Dest) (c : Cls) :
    (s.applyStaged e).count i d c =
      if d = e.dest ∧ (s.portMap.get d).map ≠ .void ∧ e.map = .void then 0 else s.count i d c := by
  by_cases taken : (s.portMap.get e.dest).map ≠ .void ∧ e.map = .void
  · rw [applyStaged_withdraws ready taken, withdraw, sendWords_frame]
    simp only [count, clearDest, Bank.get_tab, Bank.get_set, updEntry_matrix, eq_comm (a := e.dest)]
    by_cases hd : d = e.dest
    · subst hd; simp [taken]
    · simp [hd]
  · rw [applyStaged_keeps ready taken, if_neg]
    · rfl
    · rintro ⟨rfl, both⟩
      exact taken both

theorem applyStaged_transmit (ready : s.tablesReady = true) (e : StagedEntry) (i : Port) :
    (s.applyStaged e).transmit.get i =
      { s.transmit.get i with
        words := (s.transmit.get i).words ++ if s.withdrawsAt i e then [.withdrawn e.dest] else [] } := by
  by_cases taken : (s.portMap.get e.dest).map ≠ .void ∧ e.map = .void
  · have targets : i ∈ s.withdrawTargets e.dest ↔ s.withdrawsAt i e = true := by
      simp [mem_withdrawTargets, withdrawsAt, taken]
    rw [applyStaged_withdraws ready taken, withdraw]
    refine (sendWords_transmit _ _ _ ?_ ?_ i).trans ?_
    · exact (List.nodup_finRange 32).filter _
    · exact fun p hp => ((mem_withdrawTargets s e.dest p).mp hp).1
    · exact congrArg (fun ws => { s.transmit.get i with words := (s.transmit.get i).words ++ ws }) (if_congr targets rfl rfl)
  · have none : s.withdrawsAt i e = false := by
      simp only [withdrawsAt, decide_eq_false_iff_not]
      rintro ⟨void, before, -⟩
      exact taken ⟨before, void⟩
    rw [applyStaged_keeps ready taken, none]
    simp

theorem sum_indicator {α : Type} (p : α → Bool) (xs : List α) :
    (xs.map fun x => if p x then 1 else 0).sum = (xs.filter p).length := by
  induction xs with
  | nil => rfl
  | cons x xs ih => cases h : p x <;> simp [h, ih, Nat.add_comm]

theorem withdrawCount_eq (ready : s.tablesReady = true) (e : StagedEntry) :
    s.withdrawCount e = ((List.finRange 32).map fun i => if s.withdrawsAt i e then 1 else 0).sum := by
  rw [sum_indicator, withdrawCount, mapEntry_ready ready]
  split
  · next taken =>
    have same : ∀ i ∈ List.finRange 32,
        (s.isUp i && (List.finRange 4).any fun c => decide (s.count i e.dest c ≠ 0)) = s.withdrawsAt i e := fun i _ => by
      rw [Bool.eq_iff_iff]
      simp [withdrawsAt, taken, isUp_iff]
    rw [withdrawTargets, List.filter_congr same]
  · next kept =>
    have none : ∀ i ∈ List.finRange 32, ¬s.withdrawsAt i e = true := fun i _ sends => by
      simp only [withdrawsAt, decide_eq_true_eq] at sends
      obtain ⟨void, before, -⟩ := sends
      exact kept ⟨before, void⟩
    rw [List.filter_eq_nil_iff.mpr none, List.length_nil]

/-! ### The whole list -/

theorem withdrawsAt_applyStaged (ready : s.tablesReady = true) {e x : StagedEntry} (other : x.dest ≠ e.dest) (i : Port) :
    (s.applyStaged e).withdrawsAt i x = s.withdrawsAt i x := by
  have entry : (s.applyStaged e).portMap.get x.dest = s.portMap.get x.dest := by
    rw [applyStaged_frame]; exact Bank.get_upd_ne _ other.symm _
  have link : (s.applyStaged e).link i = s.link i := by rw [applyStaged_frame]; rfl
  simp only [withdrawsAt, entry, link, applyStaged_count ready, if_neg (fun h : _ ∧ _ => other h.1)]

theorem withdrawnAt_applyStaged (ready : s.tablesReady = true) {e : StagedEntry} {es : List StagedEntry}
    (other : ∀ x ∈ es, x.dest ≠ e.dest) (i : Port) : (s.applyStaged e).withdrawnAt i es = s.withdrawnAt i es := by
  unfold withdrawnAt
  rw [List.filter_congr fun x hx => withdrawsAt_applyStaged ready (other x hx) i]

theorem withdrawnAt_cons (s : State) (i : Port) (e : StagedEntry) (es : List StagedEntry) :
    s.withdrawnAt i (e :: es) = (if s.withdrawsAt i e then [e.dest] else []) ++ s.withdrawnAt i es := by
  unfold withdrawnAt
  rw [List.filter_cons]
  split <;> simp

theorem applyAll_cons (e : StagedEntry) (es : List StagedEntry) (s : State) :
    State.applyAll (e :: es) s =
      ((State.applyAll es (s.applyStaged e)).1, s.withdrawCount e + (State.applyAll es (s.applyStaged e)).2) := rfl

theorem applyAll_frame (es : List StagedEntry) (s : State) :
    (State.applyAll es s).1 =
      { s with
        portMap := (State.applyAll es s).1.portMap
        matrix := (State.applyAll es s).1.matrix
        transmit := (State.applyAll es s).1.transmit } := by
  induction es generalizing s with
  | nil => rfl
  | cons e es ih =>
    refine (ih (s.applyStaged e)).trans ?_
    rw [applyAll_cons]
    generalize (applyAll es (s.applyStaged e)).1 = x
    rw [applyStaged_frame]

theorem applyAll_entry_other {es : List StagedEntry} {d : Dest} (other : ∀ e ∈ es, e.dest ≠ d) (s : State) :
    (State.applyAll es s).1.portMap.get d = s.portMap.get d := by
  induction es generalizing s with
  | nil => rfl
  | cons e es ih =>
    rw [applyAll_cons, ih fun x hx => other x (List.mem_cons_of_mem e hx)]
    rw [applyStaged_frame]
    exact Bank.get_upd_ne _ (other e List.mem_cons_self) _

theorem applyAll_entry {es : List StagedEntry} (nodup : (es.map StagedEntry.dest).Nodup) (s : State) :
    ∀ e ∈ es, (State.applyAll es s).1.portMap.get e.dest = { s.portMap.get e.dest with map := e.map } := by
  induction es generalizing s with
  | nil => exact fun e he => absurd he List.not_mem_nil
  | cons e es ih =>
    rw [List.map_cons, List.nodup_cons, List.mem_map] at nodup
    obtain ⟨fresh, nodup⟩ := nodup
    have other : ∀ x ∈ es, x.dest ≠ e.dest := fun x hx same => fresh ⟨x, hx, same⟩
    intro x hx
    rw [applyAll_cons]
    simp only
    rcases List.mem_cons.mp hx with rfl | hx
    · rw [applyAll_entry_other other, applyStaged_frame]
      exact Bank.get_upd_self _ _ _
    · rw [ih nodup _ x hx, applyStaged_frame]
      simp only [Bank.get_upd_ne _ (other x hx).symm]

theorem applyAll_count {es : List StagedEntry} (nodup : (es.map StagedEntry.dest).Nodup) (ready : s.tablesReady = true)
    (i : Port) (d : Dest) (c : Cls) :
    (State.applyAll es s).1.count i d c =
      if (s.portMap.get d).map ≠ .void ∧ ⟨d, .void⟩ ∈ es then 0 else s.count i d c := by
  induction es generalizing s with
  | nil => simp [applyAll]
  | cons e es ih =>
    rw [List.map_cons, List.nodup_cons, List.mem_map] at nodup
    obtain ⟨fresh, nodup⟩ := nodup
    rw [applyAll_cons]
    simp only
    rw [ih nodup ((Moves.applyStaged_tablesReady s e).trans ready), applyStaged_count ready]
    by_cases hd : d = e.dest
    · subst hd
      have gone : (⟨e.dest, .void⟩ : StagedEntry) ∉ es := fun h => fresh ⟨_, h, rfl⟩
      have here : (⟨e.dest, .void⟩ : StagedEntry) = e ↔ e.map = .void := by
        obtain ⟨dest, map⟩ := e
        simp [eq_comm]
      rw [if_neg fun h => gone h.2]
      exact if_congr (by rw [List.mem_cons, here, or_iff_left gone, and_iff_right rfl]) rfl rfl
    · have gone : (⟨d, .void⟩ : StagedEntry) ≠ e := fun h => hd (congrArg StagedEntry.dest h)
      have entry : (s.applyStaged e).portMap.get d = s.portMap.get d := by
        rw [applyStaged_frame]; exact Bank.get_upd_ne _ (Ne.symm hd) _
      simp [gone, hd, entry, List.mem_cons]

theorem applyAll_transmit {es : List StagedEntry} (nodup : (es.map StagedEntry.dest).Nodup) (ready : s.tablesReady = true)
    (i : Port) :
    (State.applyAll es s).1.transmit.get i =
      { s.transmit.get i with words := (s.transmit.get i).words ++ (s.withdrawnAt i es).map .withdrawn } := by
  induction es generalizing s with
  | nil => simp [applyAll, withdrawnAt]
  | cons e es ih =>
    rw [List.map_cons, List.nodup_cons, List.mem_map] at nodup
    obtain ⟨fresh, nodup⟩ := nodup
    rw [applyAll_cons]
    simp only
    rw [ih nodup ((Moves.applyStaged_tablesReady s e).trans ready), applyStaged_transmit ready,
      withdrawnAt_applyStaged ready fun x hx same => fresh ⟨x, hx, same⟩, withdrawnAt_cons]
    cases s.withdrawsAt i e <;> simp

theorem applyAll_withdrawn {es : List StagedEntry} (nodup : (es.map StagedEntry.dest).Nodup)
    (ready : s.tablesReady = true) :
    (State.applyAll es s).2 = ((List.finRange 32).map fun i => (s.withdrawnAt i es).length).sum := by
  induction es generalizing s with
  | nil => simp [applyAll, withdrawnAt]
  | cons e es ih =>
    rw [List.map_cons, List.nodup_cons, List.mem_map] at nodup
    obtain ⟨fresh, nodup⟩ := nodup
    have other : ∀ x ∈ es, x.dest ≠ e.dest := fun x hx same => fresh ⟨x, hx, same⟩
    have parts : ∀ i, (s.withdrawnAt i (e :: es)).length =
        (if s.withdrawsAt i e then 1 else 0) + (s.withdrawnAt i es).length := fun i => by
      rw [withdrawnAt_cons]; cases s.withdrawsAt i e <;> simp [Nat.add_comm]
    rw [applyAll_cons, ih nodup ((Moves.applyStaged_tablesReady s e).trans ready), withdrawCount_eq ready]
    simp only [withdrawnAt_applyStaged ready other, parts, List.sum_map_add]

/-! ### The command -/

theorem exec_commitMap {l : MgmtLink} (running : s.held = none) (holder : s.holder = some l) (ready : s.tablesReady = true)
    (staged : s.staging ≠ []) :
    exec (.commitMap l) s = .next
      ({ (State.applyAll s.staging s).1 with staging := [] }.respond l 11 .done
        (.committed s.staging.length (State.applyAll s.staging s).2)) := by
  refine (show execCommitMap l s = _ from whenRunning_running running _).trans (congrArg _ ?_)
  rw [mutating_holder holder, if_neg (by simp [ready]), if_neg (by simpa using staged)]

theorem exec_commitMap_empty {l : MgmtLink} (running : s.held = none) (holder : s.holder = some l)
    (ready : s.tablesReady = true) (empty : s.staging = []) :
    exec (.commitMap l) s = .next (s.respond l 11 .empty .none) := by
  refine (show execCommitMap l s = _ from whenRunning_running running _).trans (congrArg _ ?_)
  rw [mutating_holder holder, if_neg (by simp [ready]), if_pos (by simp [empty])]

end Sys2Proof.Machine.State

section
open Sys2Proof Sys2Proof.Machine Sys2Proof.Machine.State

/-- Settles O54, by induction over the staging list. -/
theorem commitAppliesTheWholeStagingList : Obligations.CommitAppliesTheWholeStagingList := by
  unfold Obligations.CommitAppliesTheWholeStagingList
  intro s l running holder ready
  refine ⟨exec_commitMap_empty running holder ready, ?_⟩
  intro staged nodup withdrawn
  refine ⟨_, exec_commitMap running holder ready staged, applyAll_entry nodup s, fun d other => applyAll_entry_other other s,
    applyAll_count nodup ready, applyAll_transmit nodup ready, ?_⟩
  rw [applyAll_withdrawn nodup ready]
  conv_lhs => rw [applyAll_frame]
  rfl

end
end

section
/-! PROOF. Proofs/Teardown.lean: teardown of a port, block by block (R147 and the rules it names). -/

namespace Sys2Proof.Machine.State

variable {s : State} {j : Port}

/-! ### Sums over all ports -/

/-- A sum over all ports in which the terms have lost what `loss` says. -/
theorem sum_ports_add {f g loss : Port → Nat} (h : ∀ i, f i = g i + loss i) :
    ((List.finRange 32).map f).sum = ((List.finRange 32).map g).sum + ((List.finRange 32).map loss).sum := by
  rw [← List.sum_map_add, funext h]

theorem sum_ports_single (j : Port) (n : Nat) : ((List.finRange 32).map fun i => if i = j then n else 0).sum = n := by
  rw [← Fin.sum_univ_def, Finset.sum_ite_eq' Finset.univ j fun _ => n, if_pos (Finset.mem_univ j)]

theorem exists_pos_of_sum_ports {f : Port → Nat} (h : 0 < ((List.finRange 32).map f).sum) : ∃ i, 0 < f i := by
  by_contra none
  simp only [not_exists, Nat.not_lt, Nat.le_zero] at none
  simp [funext none] at h

/-! ### Records that lapse -/

theorem lapsing_of_ne {i : Port} (h : i ≠ j) : s.lapsing j i = (s.records i).filter (·.naming j) := if_neg h

/-- A record names one port at most. -/
theorem naming_unique {r : GrantRecord} {k : Port} (hk : r.naming k = true) (h : k ≠ j) : r.naming j = false := by
  unfold GrantRecord.naming at *
  split at hk
  · rw [decide_eq_true_eq] at hk
    exact decide_eq_false (hk ▸ h)
  · cases hk

/-- The records of other ports stay on the lists when `j` is torn down, but for those on j's own list. -/
theorem recordsNaming_teardown {k : Port} (h : k ≠ j) :
    s.recordsNaming k = (s.teardown j).recordsNaming k + (s.records j).countP (·.naming k) := by
  unfold recordsNaming
  rw [← sum_ports_single j ((s.records j).countP (·.naming k))]
  refine sum_ports_add fun i => ?_
  rw [records_teardown]
  split
  · next e => rw [e]; simp
  · rw [List.countP_filter, Nat.add_zero]
    refine List.countP_congr fun r _ => ?_
    simp only [Bool.and_eq_true, Bool.not_eq_true', iff_self_and]
    exact fun hk => naming_unique hk h

theorem recordsNaming_teardown_self (s : State) (j : Port) : (s.teardown j).recordsNaming j = 0 := by
  have none : ∀ i, ((s.teardown j).records i).countP (·.naming j) = 0 := fun i => by
    rw [List.countP_eq_zero]
    intro r mem
    rw [(records_teardown_subset mem).2]
    exact Bool.false_ne_true
  simp [recordsNaming, none]

theorem inFlightOk_teardown (h : s.InFlightOk) (j : Port) : (s.teardown j).InFlightOk := by
  intro k
  obtain ⟨exact_, le⟩ := h k
  simp only [teardown_arbiters, teardown_transmit, Bank.get_tab]
  by_cases hk : k = j
  · subst hk
    simp [tornArbiter, Arbiter.idle, tornTransmit, Transmit.empty, recordsNaming_teardown_self]
  · have queue : (s.tornTransmit j k).queue = (s.transmit.get k).queue := by
      simp only [tornTransmit, if_neg hk]
      split <;> rfl
    have inFlight : (s.tornArbiter j k).inFlight = (s.arbiters.get k).inFlight - (s.records j).countP (·.naming k) := by
      simp only [tornArbiter, if_neg hk]
    rw [queue, inFlight, exact_, recordsNaming_teardown hk]
    rw [exact_, recordsNaming_teardown hk] at le
    omega

/-! ### Drain counts (R26) -/

theorem countP_filter_split {α : Type} (p q : α → Bool) (xs : List α) :
    xs.countP p = (xs.filter fun x => !q x).countP p + (xs.filter q).countP p := by
  induction xs with
  | nil => rfl
  | cons x xs ih => cases hq : q x <;> cases hp : p x <;> simp [hq, hp, ih] <;> omega

theorem recordsToward_teardown (s : State) (j : Port) (d : Dest) :
    s.recordsToward d = (s.teardown j).recordsToward d +
      ((s.records j).countP (·.toward d) + ((List.finRange 32).map fun i => (s.lapsing j i).countP (·.toward d)).sum) := by
  unfold recordsToward
  rw [← sum_ports_single j ((s.records j).countP (·.toward d)), ← List.sum_map_add]
  refine sum_ports_add fun i => ?_
  rw [records_teardown]
  by_cases hi : i = j
  · subst hi; simp [lapsing]
  · rw [lapsing_of_ne hi, if_neg hi, if_neg hi, Nat.zero_add]
    exact countP_filter_split _ _ _

theorem cellsToward_teardown (s : State) (j : Port) (d : Dest) :
    s.cellsToward d = (s.teardown j).cellsToward d + (s.transmit.get j).queue.countP (TxEntry.isToward d) := by
  unfold cellsToward
  rw [← sum_ports_single j ((s.transmit.get j).queue.countP (TxEntry.isToward d))]
  refine sum_ports_add fun i => ?_
  rw [teardown_transmit, Bank.get_tab, tornTransmit]
  by_cases hi : i = j
  · subst hi; simp [Transmit.empty]
  · simp only [if_neg hi, Nat.add_zero]
    split <;> rfl

theorem drainOk_teardown (h : s.DrainOk) (j : Port) : (s.teardown j).DrainOk := by
  refine ⟨by simpa using h.1, fun d => ?_⟩
  obtain ⟨exact_, zero⟩ := h.2 d
  simp only [teardown_portMap, Bank.get_tab, teardown_tablesReady]
  refine ⟨?_, fun notReady => by rw [zero notReady, Nat.zero_sub]⟩
  rw [exact_, recordsToward_teardown s j d, cellsToward_teardown s j d, drainLoss]
  omega

/-! ### Slots (R78, R129, R130) -/

theorem reserves_iff {r : GrantRecord} {k : SlotNo} : r.reserves k = true ↔ ∃ g, r.target = .multicast g k := by
  unfold GrantRecord.reserves
  split
  · next h => simp [h]
  · next h => simp [h]

/-- Under the law of slots, a slot is reserved by a record on j's list exactly when it is RESERVED with source j. -/
theorem any_reserves_iff {k : SlotNo} (h : s.SlotOk k) :
    (s.records j).any (·.reserves k) = true ↔ ∃ g c, s.slots.get k = .reserved j g c := by
  obtain ⟨count, named, -, -⟩ := h
  rw [List.any_eq_true]
  constructor
  · rintro ⟨r, mem, reserves⟩
    obtain ⟨g, target⟩ := reserves_iff.mp reserves
    exact ⟨g, r.cls, named j r mem g target⟩
  · rintro ⟨g, c, slot⟩
    have positive : 0 < s.recordsReserving k := by rw [count, slot]; exact Nat.one_pos
    obtain ⟨i, hi⟩ := exists_pos_of_sum_ports positive
    obtain ⟨r, mem, reserves⟩ := List.countP_pos_iff.mp hi
    obtain ⟨g', target⟩ := reserves_iff.mp reserves
    have same := named i r mem g' target
    rw [slot, Slot.reserved.injEq] at same
    exact ⟨r, same.1 ▸ mem, reserves⟩

/-- Under the law of slots, j's two queues hold a slot exactly when j is in its reference set. -/
theorem holds_iff {k : SlotNo} (h : s.SlotOk k) :
    ((s.arbiters.get j).delivery.contains k || (s.transmit.get j).queue.any (TxEntry.isCopyOf k)) = true ↔
      j ∈ (s.slots.get k).refs := by
  obtain ⟨-, -, holdings, -⟩ := h
  have count := holdings j
  have positive : ((s.arbiters.get j).delivery.contains k || (s.transmit.get j).queue.any (TxEntry.isCopyOf k)) = true ↔
      0 < s.holdings j k := by
    rw [State.holdings, Nat.add_pos_iff_pos_or_pos, List.count_pos_iff, List.countP_pos_iff]
    simp [List.any_eq_true]
  rw [positive, count]
  split
  · next mem => simp [mem]
  · next other => simp [other]

theorem release_filled (src : Port) (g : Group) (c : Cls) (x : CellContent) (refs : List Port) (j : Port) :
    (Slot.filled src g c x refs).release j =
      if refs.filter (· ≠ j) = [] then .free else .filled src g c x (refs.filter (· ≠ j)) := by
  simp only [Slot.release]
  cases refs.filter (· ≠ j) <;> simp

theorem tornSlot_free {k : SlotNo} (slot : s.slots.get k = .free) : s.tornSlot j k = .free := by
  simp [tornSlot, slot, Slot.unreserve, Slot.release]

theorem tornSlot_reserved {k : SlotNo} (h : s.SlotOk k) {src : Port} {g : Group} {c : Cls}
    (slot : s.slots.get k = .reserved src g c) : s.tornSlot j k = if src = j then .free else .reserved src g c := by
  have reserved : (s.records j).any (·.reserves k) = true ↔ src = j := by
    rw [any_reserves_iff h, slot]; simp
  simp only [tornSlot, reserved, slot]
  by_cases own : src = j
  · simp only [if_pos own, Slot.unreserve, Slot.release, ite_self]
  · simp only [if_neg own, Slot.release, ite_self]

theorem tornSlot_filled {k : SlotNo} (h : s.SlotOk k) {src : Port} {g : Group} {c : Cls} {x : CellContent}
    {refs : List Port} (slot : s.slots.get k = .filled src g c x refs) :
    s.tornSlot j k = if refs.filter (· ≠ j) = [] then .free else .filled src g c x (refs.filter (· ≠ j)) := by
  have holds := holds_iff (j := j) h
  obtain ⟨-, -, -, filled⟩ := h
  rw [slot, Slot.refs] at holds
  simp only [tornSlot, holds, slot, Slot.unreserve, ite_self]
  split
  · exact release_filled src g c x refs j
  · next other =>
    have same : refs.filter (· ≠ j) = refs := List.filter_eq_self.mpr fun p mem => by
      simpa using fun e : p = j => other (e ▸ mem)
    rw [same, if_neg (filled src g c x refs slot).1]

/-! ### Events -/

theorem teardown_view (s : State) (j : Port) (l : MgmtLink) :
    (s.teardown j).view l =
      if ∃ i, i ≠ j ∧ ∃ r ∈ s.records i, r.naming j = true then (s.view l).raise .grantLapsed else s.view l := by
  have lapses : (List.finRange 32).any (fun i => !(s.lapsing j i).isEmpty) = true ↔
      ∃ i, i ≠ j ∧ ∃ r ∈ s.records i, r.naming j = true := by
    simp only [List.any_eq_true, List.mem_finRange, true_and, Bool.not_eq_true', lapsing]
    refine exists_congr fun i => ?_
    by_cases hi : i = j <;> simp [hi]
  rw [teardown]
  by_cases h : ∃ i, i ≠ j ∧ ∃ r ∈ s.records i, r.naming j = true
  · rw [if_pos h, if_pos (lapses.mpr h), raise_view]
    cases l <;> rfl
  · rw [if_neg h, if_neg (h ∘ lapses.mp)]
    cases l <;> rfl

/-- What teardown may change. -/
theorem teardown_frame (s : State) (j : Port) :
    s.teardown j = { s with
      links := (s.teardown j).links, intakes := (s.teardown j).intakes, matrix := (s.teardown j).matrix
      portMap := (s.teardown j).portMap, arbiters := (s.teardown j).arbiters
      grantLists := (s.teardown j).grantLists, transmit := (s.teardown j).transmit
      mcastQueues := (s.teardown j).mcastQueues, slots := (s.teardown j).slots
      viewA := (s.teardown j).viewA, viewB := (s.teardown j).viewB } := by
  unfold teardown
  simp only
  split <;> rfl

/-! ### The blocks of the other ports -/

theorem lapseOffers_eq (s : State) (j : Port) :
    s.lapseOffers j = (List.finRange 32).map fun i =>
      if i = j then [] else ((s.records i).filter (·.naming j)).map fun r => .lapse i r.tag r.target.item r.cls := by
  refine List.map_congr_left fun i _ => ?_
  unfold lapsing
  split <;> rfl

theorem teardown_words {i : Port} (h : i ≠ j) (up : s.link i = .up) :
    ((s.teardown j).transmit.get i).words =
      (s.transmit.get i).words ++ ((s.records i).filter (·.naming j)).map fun r => .lapsed r.tag r.cls r.target.item := by
  rw [teardown_transmit, Bank.get_tab, tornTransmit, if_neg h]
  simp only [(isUp_iff s i).mpr up, if_true, lapsing_of_ne h]
  rfl

theorem teardown_queue {i : Port} (h : i ≠ j) :
    ((s.teardown j).transmit.get i).queue = (s.transmit.get i).queue ∧
      ((s.teardown j).transmit.get i).sending = (s.transmit.get i).sending := by
  rw [teardown_transmit, Bank.get_tab, tornTransmit, if_neg h]
  simp only
  split <;> exact ⟨rfl, rfl⟩

theorem teardown_link {i : Port} (h : i ≠ j) :
    (s.teardown j).links.get i =
      { s.links.get i with tallies := (s.links.get i).tallies.addLapsed ((s.records i).countP (·.naming j)) } := by
  rw [teardown_links, Bank.get_tab, if_neg h, lapsing_of_ne h, List.countP_eq_length_filter]

theorem teardown_arbiter {i : Port} (h : i ≠ j) :
    (s.teardown j).arbiters.get i =
      { s.arbiters.get i with
        credit :=
          if (s.records j).countP (·.naming i) = 0 then (s.arbiters.get i).credit
          else min (s.links.get i).bufferCount ((s.arbiters.get i).credit + (s.records j).countP (·.naming i))
        inFlight := (s.arbiters.get i).inFlight - (s.records j).countP (·.naming i) } := by
  rw [teardown_arbiters, Bank.get_tab, tornArbiter, if_neg h]

end Sys2Proof.Machine.State

section
open Sys2Proof Sys2Proof.Machine Sys2Proof.Machine.State

/-- Settles O25, block by block; the exact counts and the slots use the laws of the state before. -/
theorem teardownClearsThePortAndReturnsWhatItHeld : Obligations.TeardownClearsThePortAndReturnsWhatItHeld := by
  unfold Obligations.TeardownClearsThePortAndReturnsWhatItHeld
  intro s j _ inFlight drain slots
  refine ⟨teardown_intakes s j, teardown_matrix s j, teardown_mcastQueues s j, ?_, ?_, ?_, ?_, fun i h => ?_,
    inFlightOk_teardown inFlight j, drainOk_teardown drain j, fun d => ?_, fun k => ?_, teardown_frame s j,
    teardown_view s j, fun f => ?_⟩
  · rw [teardown_grantLists, Bank.get_tab, if_pos rfl]; rfl
  · rw [teardown_transmit, Bank.get_tab, tornTransmit, if_pos rfl]; rfl
  · rw [teardown_arbiters, Bank.get_tab, tornArbiter]
    simp only [if_true]
    rfl
  · rw [teardown_links, Bank.get_tab, if_pos rfl]
  · have list : (s.teardown j).grantLists.get i =
        { s.grantLists.get i with records := (s.records i).filter fun r => !r.naming j } := by
      rw [teardown_grantLists, Bank.get_tab, if_neg h]
    exact ⟨by rw [list], by rw [list], (teardown_queue h).1, (teardown_queue h).2, teardown_words h, teardown_link h,
      teardown_arbiter h⟩
  · rw [teardown_portMap, Bank.get_tab]
  · rw [teardown_slots, Bank.get_tab]
    cases slot : s.slots.get k with
    | free => exact tornSlot_free slot
    | reserved src g c => exact tornSlot_reserved (slots k) slot
    | filled src g c x refs => exact tornSlot_filled (slots k) slot
  · rw [leaveUp, lapseOffers_eq]

end
end

section
/-! PROOF. Proofs/Choice.lean: the order in which a policy asks, which ascends in place, so that its search takes the
candidate that its rule names; and the decision of R50's table. -/

namespace Sys2Proof

/-- In a list that ascends in `place`, the first hit is the hit of the lowest place. -/
theorem find?_eq_some_iff_lowest {α : Type} {place : α → Nat} {p : α → Bool} {x : α} {l : List α}
    (ascending : l.Pairwise fun a b => place a < place b) :
    l.find? p = some x ↔ x ∈ l ∧ p x = true ∧ ∀ y ∈ l, p y = true → place x ≤ place y := by
  induction l with
  | nil => simp
  | cons a l ih =>
    obtain ⟨below, ascending⟩ := List.pairwise_cons.mp ascending
    cases hit : p a with
    | true =>
      rw [List.find?_cons_of_pos hit, Option.some.injEq]
      constructor
      · rintro rfl
        refine ⟨List.mem_cons_self, hit, fun y mem _ => ?_⟩
        rcases List.mem_cons.mp mem with rfl | later
        · exact le_rfl
        · exact (below y later).le
      · rintro ⟨mem, -, lowest⟩
        rcases List.mem_cons.mp mem with rfl | later
        · rfl
        · exact absurd (lowest a List.mem_cons_self hit) (Nat.not_le.mpr (below x later))
    | false =>
      have miss : ¬ p a = true := by simp [hit]
      rw [List.find?_cons_of_neg miss, ih ascending]
      constructor
      · rintro ⟨mem, here, lowest⟩
        refine ⟨List.mem_cons_of_mem a mem, here, fun y mem hy => ?_⟩
        rcases List.mem_cons.mp mem with rfl | later
        · exact absurd hy miss
        · exact lowest y later hy
      · rintro ⟨mem, here, lowest⟩
        refine ⟨List.mem_of_ne_of_mem (fun e => miss (by rw [← e, here])) mem, here, fun y later hy => ?_⟩
        exact lowest y (List.mem_cons_of_mem a later) hy

theorem cyclic_ascending {n : Nat} [NeZero n] (start : Fin n) :
    (cyclic start).Pairwise fun a b => a - start < b - start := by
  rw [cyclic, List.pairwise_map]
  simpa only [add_sub_cancel_left] using List.pairwise_lt_finRange n

namespace Machine

/-! ### The order in which a policy asks (R52 to R55) -/

/-- The place of an ingress and class in the order of a policy. -/
def Arbiter.rank (a : Arbiter) (i : Port) (c : Cls) : Nat :=
  match a.policy with
  | .round => (i - a.ptrs.get 0).val * 4 + c.val
  | .strict => c.val * 32 + i.val
  | .classRound => c.val * 32 + (i - a.ptrs.get c).val
  | .sole => c.val

theorem Arbiter.place_eq (a : Arbiter) (x : Candidate) : a.place x = a.rank x.ingress x.cls * 64 + x.dest.val := by
  unfold Arbiter.place Arbiter.rank
  cases a.policy <;> rfl

/-- The ingresses and classes in the order in which the policy asks for them. -/
def Arbiter.asked (a : Arbiter) : List (Port × Cls) :=
  match a.policy with
  | .round => (cyclic (a.ptrs.get 0)).flatMap fun i => (List.finRange 4).map fun c => (i, c)
  | .strict => (List.finRange 4).flatMap fun c => (List.finRange 32).map fun i => (i, c)
  | .classRound => (List.finRange 4).flatMap fun c => (cyclic (a.ptrs.get c)).map fun i => (i, c)
  | .sole => (List.finRange 4).map fun c => (a.sole, c)

theorem Arbiter.mem_asked {a : Arbiter} {i : Port} {c : Cls} : (i, c) ∈ a.asked ↔ (a.policy = .sole → a.sole = i) := by
  unfold Arbiter.asked
  cases a.policy <;> simp [mem_cyclic]

theorem Arbiter.asked_ascending (a : Arbiter) : a.asked.Pairwise fun x y => a.rank x.1 x.2 < a.rank y.1 y.2 := by
  have ports := List.pairwise_lt_finRange 32
  have classes := List.pairwise_lt_finRange 4
  unfold Arbiter.asked Arbiter.rank
  cases a.policy with
  | round =>
    simp only [List.pairwise_flatMap, List.pairwise_map, List.mem_map]
    refine ⟨fun i _ => classes.imp fun h => by omega, (cyclic_ascending _).imp fun h => ?_⟩
    rintro - ⟨c, -, rfl⟩ - ⟨c', -, rfl⟩
    dsimp only
    omega
  | strict =>
    simp only [List.pairwise_flatMap, List.pairwise_map, List.mem_map]
    refine ⟨fun c _ => ports.imp fun h => by omega, classes.imp fun h => ?_⟩
    rintro - ⟨i, -, rfl⟩ - ⟨i', -, rfl⟩
    dsimp only
    omega
  | classRound =>
    simp only [List.pairwise_flatMap, List.pairwise_map, List.mem_map]
    refine ⟨fun c _ => (cyclic_ascending _).imp fun h => by omega, classes.imp fun h => ?_⟩
    rintro - ⟨i, -, rfl⟩ - ⟨i', -, rfl⟩
    dsimp only
    omega
  | sole =>
    rw [List.pairwise_map]
    exact classes

/-- All that a policy asks for, in its order: within an ingress and class, destinations upwards. -/
def Arbiter.search (a : Arbiter) : List Candidate :=
  a.asked.flatMap fun q => (List.finRange 64).map fun d => ⟨q.1, d, q.2⟩

theorem Arbiter.mem_search {a : Arbiter} {x : Candidate} : x ∈ a.search ↔ (a.policy = .sole → a.sole = x.ingress) := by
  rw [← Arbiter.mem_asked (c := x.cls), Arbiter.search, List.mem_flatMap]
  constructor
  · rintro ⟨q, mem, here⟩
    obtain ⟨d, -, rfl⟩ := List.mem_map.mp here
    exact mem
  · exact fun mem => ⟨_, mem, List.mem_map.mpr ⟨x.dest, List.mem_finRange _, rfl⟩⟩

theorem Arbiter.search_ascending (a : Arbiter) : a.search.Pairwise fun x y => a.place x < a.place y := by
  simp only [Arbiter.search, List.pairwise_flatMap, List.pairwise_map, List.mem_map, Arbiter.place_eq]
  refine ⟨fun q _ => (List.pairwise_lt_finRange 64).imp fun h => by omega, a.asked_ascending.imp fun h => ?_⟩
  rintro - ⟨d, -, rfl⟩ - ⟨d', -, rfl⟩
  dsimp only
  omega

namespace State

variable {s : State} {j : Port}

theorem policyChoice_eq_search (s : State) (j : Port) :
    s.policyChoice j = (s.arbiters.get j).search.find? fun x => s.isCandidate j x.ingress x.dest x.cls := by
  have lowest (i : Port) (c : Cls) : s.lowestDest j i c =
      ((List.finRange 64).map fun d => (⟨i, d, c⟩ : Candidate)).find? fun x =>
        s.isCandidate j x.ingress x.dest x.cls := by
    rw [lowestDest, List.find?_map]
    rfl
  simp only [policyChoice, lowestClass, lowest, Arbiter.search, Arbiter.asked]
  cases (s.arbiters.get j).policy <;>
    simp only [List.flatMap_assoc, List.flatMap_map, List.find?_flatMap]

theorem isCandidate_iff {i : Port} {d : Dest} {c : Cls} : s.isCandidate j i d c = true ↔
    1 ≤ s.count i d c ∧ (s.mapEntry d).map = .active j ∧ s.link i = .up ∧ (s.records i).length < 4 ∧
      ((s.arbiters.get j).policy = .sole → (s.arbiters.get j).sole = i) := by
  simp only [isCandidate, ingressOpen, placeOpen, isUp_iff, Bool.and_eq_true, Bool.or_eq_true, decide_eq_true_eq,
    ne_eq, ← Decidable.imp_iff_not_or]
  tauto

/-- A candidate is among those that the policy asks for. -/
theorem mem_search_of_isCandidate {x : Candidate} (candidate : s.isCandidate j x.ingress x.dest x.cls = true) :
    x ∈ (s.arbiters.get j).search := by
  obtain ⟨-, -, -, -, source⟩ := isCandidate_iff.mp candidate
  exact Arbiter.mem_search.mpr source

theorem policyChoice_eq_none_iff : s.policyChoice j = none ↔ ∀ i d c, s.isCandidate j i d c = false := by
  rw [policyChoice_eq_search, List.find?_eq_none]
  constructor
  · intro none i d c
    by_contra candidate
    rw [Bool.not_eq_false] at candidate
    exact none ⟨i, d, c⟩ (mem_search_of_isCandidate candidate) candidate
  · intro none x _
    rw [none]
    exact Bool.false_ne_true

theorem policyChoice_eq_some_iff {x : Candidate} : s.policyChoice j = some x ↔
    s.isCandidate j x.ingress x.dest x.cls = true ∧
      ∀ i d c, s.isCandidate j i d c = true → (s.arbiters.get j).place x ≤ (s.arbiters.get j).place ⟨i, d, c⟩ := by
  rw [policyChoice_eq_search, find?_eq_some_iff_lowest (Arbiter.search_ascending _)]
  constructor
  · rintro ⟨-, candidate, lowest⟩
    exact ⟨candidate, fun i d c other => lowest ⟨i, d, c⟩ (mem_search_of_isCandidate other) other⟩
  · rintro ⟨candidate, lowest⟩
    exact ⟨mem_search_of_isCandidate candidate, candidate, fun y _ other => lowest _ _ _ other⟩

/-! ### The decision (R47, R50) -/

theorem eligible_iff (s : State) (j : Port) :
    s.eligible j = true ↔ s.link j = .up ∧ 1 ≤ (s.arbiters.get j).credit ∧ (s.arbiters.get j).inFlight < 8 := by
  simp [eligible, isUp_iff, and_assoc]

theorem decision_ineligible (h : s.eligible j = false) : s.decision j = .none := by simp [decision, h]

/-- With both a slot and a candidate at hand, the turn count decides. -/
theorem decision_both (h : s.eligible j = true) {k : SlotNo} {ks : List SlotNo} {x : Candidate}
    (delivery : (s.arbiters.get j).delivery = k :: ks) (chosen : s.policyChoice j = some x) :
    s.decision j = if (s.arbiters.get j).turn ≤ (s.arbiters.get j).u then .deliver k else .grant x := by
  simp [decision, h, delivery, chosen]

theorem decision_deliver_iff (h : s.eligible j = true) {k : SlotNo} :
    s.decision j = .deliver k ↔ (s.arbiters.get j).delivery.head? = some k ∧
      (s.policyChoice j = none ∨ (s.arbiters.get j).turn ≤ (s.arbiters.get j).u) := by
  cases delivery : (s.arbiters.get j).delivery with
  | nil => cases chosen : s.policyChoice j <;> simp [decision, h, delivery, chosen]
  | cons k' ks =>
    cases chosen : s.policyChoice j with
    | none => simp [decision, h, delivery, chosen]
    | some y =>
      rw [decision_both h delivery chosen]
      by_cases due : (s.arbiters.get j).turn ≤ (s.arbiters.get j).u <;> simp [due]

theorem decision_grant_iff (h : s.eligible j = true) {x : Candidate} :
    s.decision j = .grant x ↔ s.policyChoice j = some x ∧
      ((s.arbiters.get j).delivery = [] ∨ (s.arbiters.get j).u < (s.arbiters.get j).turn) := by
  rw [← Nat.not_le]
  cases delivery : (s.arbiters.get j).delivery with
  | nil => cases chosen : s.policyChoice j <;> simp [decision, h, delivery, chosen]
  | cons k' ks =>
    cases chosen : s.policyChoice j with
    | none => simp [decision, h, delivery, chosen]
    | some y =>
      rw [decision_both h delivery chosen]
      by_cases due : (s.arbiters.get j).turn ≤ (s.arbiters.get j).u <;> simp [due]

end State
end Machine
end Sys2Proof

section
open Sys2Proof.Machine.State

/-- Settles O33: a policy's search asks in the order of places, and for every candidate. -/
theorem policyTakesTheCandidateItsRuleNames : Obligations.PolicyTakesTheCandidateItsRuleNames := by
  unfold Obligations.PolicyTakesTheCandidateItsRuleNames
  exact fun s j => ⟨policyChoice_eq_none_iff, fun x => policyChoice_eq_some_iff⟩

/-- Settles O32. -/
theorem arbiterDecidesByEligibilityCandidatesAndTurn : Obligations.ArbiterDecidesByEligibilityCandidatesAndTurn := by
  unfold Obligations.ArbiterDecidesByEligibilityCandidatesAndTurn
  exact fun s j => ⟨eligible_iff s j, fun i d c => isCandidate_iff, decision_ineligible,
    fun h => ⟨fun k => decision_deliver_iff h, fun x => decision_grant_iff h⟩⟩

end
end

section
/-! PROOF. Proofs/LinkLaws.lean: the changes of a link port that keep its law (R134, R93, R179). -/

namespace Sys2Proof.Machine

/-! ### Tallies (R179) -/

namespace Tallies.Ok

variable {t : Tallies}

theorem addCellsIn (h : t.Ok) : t.addCellsIn.Ok := ⟨raiseTo_le _ _ _, h.2⟩

theorem addCellsOut (h : t.Ok) : t.addCellsOut.Ok := by
  obtain ⟨cellsIn, -, rest⟩ := h
  exact ⟨cellsIn, raiseTo_le _ _ _, rest⟩

theorem addLapsed (h : t.Ok) (k : Nat) : (t.addLapsed k).Ok := by
  obtain ⟨cellsIn, cellsOut, -, rest⟩ := h
  exact ⟨cellsIn, cellsOut, raiseTo_le _ _ _, rest⟩

theorem addLate (h : t.Ok) : t.addLate.Ok := by
  obtain ⟨cellsIn, cellsOut, lapsed, -, rest⟩ := h
  exact ⟨cellsIn, cellsOut, lapsed, raiseTo_le _ _ _, rest⟩

theorem addRefused (h : t.Ok) : t.addRefused.Ok := by
  obtain ⟨cellsIn, cellsOut, lapsed, late, -, rest⟩ := h
  exact ⟨cellsIn, cellsOut, lapsed, late, raiseTo_le _ _ _, rest⟩

theorem addCheckError (h : t.Ok) : t.addCheckError.Ok := by
  obtain ⟨cellsIn, cellsOut, lapsed, late, refused, -, rest⟩ := h
  exact ⟨cellsIn, cellsOut, lapsed, late, refused, raiseTo_le _ _ _, rest⟩

theorem addEmptyFanout (h : t.Ok) : t.addEmptyFanout.Ok := by
  obtain ⟨cellsIn, cellsOut, lapsed, late, refused, checkErrors, -⟩ := h
  exact ⟨cellsIn, cellsOut, lapsed, late, refused, checkErrors, raiseTo_le _ _ _⟩

theorem zero : Tallies.zero.Ok := by simp [Tallies.Ok, Tallies.zero]

end Tallies.Ok

/-! ### Changes within a link state -/

namespace LinkPort

variable {l m : LinkPort}

theorem reset_ok (presence : Bool) : (LinkPort.reset presence).Ok := by
  constructor <;> simp [LinkPort.reset, Tallies.Ok.zero]

namespace Ok

theorem withTallies (h : l.Ok) {t : Tallies} (ok : t.Ok) : Ok { l with tallies := t } := { h with tallies := ok }

theorem clearSticky (h : l.Ok) (link : MgmtLink) : (l.clearSticky link).Ok := by
  cases link <;> exact { h with }

theorem framed (h : l.Ok) : Ok { l with framingRun := 0 } :=
  { h with framingRun := ⟨Nat.zero_lt_succ _, fun e => absurd rfl e⟩ }

theorem unmarked (h : l.Ok) : Ok { l with goodMarks := 0 } :=
  { h with goodMarks := ⟨Nat.zero_lt_succ _, fun _ => rfl⟩ }

theorem marked (h : l.Ok) (aligning : l.link = .aligning) {n : Nat} (few : n < 16) : Ok { l with goodMarks := n } :=
  { h with goodMarks := ⟨few, fun e => absurd aligning e⟩ }

theorem failedFrames (h : l.Ok) (link : l.link = .exchange ∨ l.link = .up) {n : Nat} (few : n < 4) :
    Ok { l with framingRun := n } :=
  { h with framingRun := ⟨few, fun _ => link⟩ }

theorem countError (h : l.Ok) (link : l.link = .exchange ∨ l.link = .up)
    (below : l.countError.windowCount < l.threshold) : l.countError.Ok := by
  have running := h.window_iff.mpr link
  exact { h with
    windowCount := fun stopped => absurd stopped running
    windowCount_le := below.le.trans h.threshold.2
    tallies := h.tallies.addCheckError }

theorem restartWindow (h : l.Ok) (running : l.window ≠ none) (due : Time) :
    Ok { l with window := some due, windowCount := 0 } :=
  { h with
    window_iff := ⟨fun _ => h.window_iff.mp running, fun _ => Option.some_ne_none due⟩
    windowCount := fun _ => rfl
    windowCount_le := Nat.zero_le _ }

theorem retried (h : l.Ok) (exchange : l.link = .exchange) (few : l.retry + 1 < 8) (due : Time) :
    Ok { l with retry := l.retry + 1, exchangeTimer := some due } :=
  { h with
    timer_iff := ⟨fun _ => exchange, fun _ => Option.some_ne_none due⟩
    retry_le := ⟨few.le, fun e => absurd e few.ne⟩
    retry_zero := by simp [exchange] }

/-- New settings that leave the enable item in agreement with the link state (R136, R148). -/
theorem withSettings (h : l.Ok) {x : PortSettings} (threshold : 1 ≤ x.threshold ∧ x.threshold ≤ 255)
    (enable : l.link = .off ↔ x.enable = false) : (l.withSettings x).Ok :=
  { h with off_iff := enable, threshold := threshold }

theorem withPresence (h : l.Ok) {b : Bool} (dark : l.link = .dark → b = false)
    (present : l.link = .aligning ∨ l.link = .exchange ∨ l.link = .up → b = true) : Ok { l with presence := b } :=
  { h with dark := dark, present := present }

theorem enable_of_on (h : l.Ok) (on : l.link ≠ .off) : l.enable = true := by simpa using mt h.off_iff.mpr on

theorem buffer_zero (h : l.Ok) (down : l.link ≠ .up) : l.bufferCount = 0 := by
  have := h.bufferCount
  rwa [if_neg down] at this

end Ok

/-! ### Changes of link state: what the port is made of, and that the new state's law holds -/

theorem toOff_ok (h : l.Ok) (enable : m.enable = false) (threshold : 1 ≤ m.threshold ∧ m.threshold ≤ 255)
    (buffer : m.bufferCount = 0) (tallies : m.tallies = l.tallies) : m.toOff.Ok := by
  constructor <;> simp [toOff, enable, threshold, buffer, tallies, h.tallies]

theorem toDark_ok (h : l.Ok) (on : l.link ≠ .off) (enable : m.enable = l.enable) (presence : m.presence = false)
    (threshold : m.threshold = l.threshold) (buffer : m.bufferCount = 0) (tallies : m.tallies = l.tallies) :
    m.toDark.Ok := by
  have enabled := h.enable_of_on on
  constructor <;> simp [toDark, toOff, enable, enabled, presence, threshold, h.threshold, buffer, tallies, h.tallies]

theorem loseAlignment_ok (h : l.Ok) (link : l.link = .exchange ∨ l.link = .up) (enable : m.enable = l.enable)
    (presence : m.presence = l.presence) (threshold : m.threshold = l.threshold) (retry : m.retry = l.retry)
    (buffer : m.bufferCount = 0) (tallies : m.tallies = l.tallies) : m.loseAlignment.Ok := by
  have enabled := h.enable_of_on (by rintro e; simp [e] at link)
  have present := h.present (.inr link)
  have faulted : l.retry ≠ 8 := fun e => by simp [h.retry_le.2 e] at link
  constructor <;>
    simp [loseAlignment, enable, enabled, presence, present, threshold, h.threshold, retry, h.retry_le.1, faulted, buffer,
      tallies, h.tallies]

theorem toFaulted_ok (h : l.Ok) (link : l.link = .exchange ∨ l.link = .up) (enable : m.enable = l.enable)
    (threshold : m.threshold = l.threshold) (marks : m.goodMarks = l.goodMarks) (retry : m.retry ≤ 8)
    (buffer : m.bufferCount = 0) (tallies : m.tallies.Ok) : m.toFaulted.Ok := by
  have enabled := h.enable_of_on (by rintro e; simp [e] at link)
  have none : l.goodMarks = 0 := h.goodMarks.2 (by rintro e; simp [e] at link)
  constructor <;> simp [toFaulted, enable, enabled, threshold, h.threshold, marks, none, retry, buffer, tallies]

namespace Ok

/-- In OFF and DARK nothing runs and nothing is counted but good marks, of which there are none. -/
theorem stopped (h : l.Ok) (link : l.link = .off ∨ l.link = .dark) :
    l.exchangeTimer = none ∧ l.window = none ∧ l.windowCount = 0 ∧ l.goodMarks = 0 ∧ l.framingRun = 0 ∧ l.retry = 0 ∧
      l.bufferCount = 0 := by
  have timer : l.exchangeTimer = none := of_not_not fun e => by simp [h.timer_iff.mp e] at link
  have window : l.window = none := of_not_not fun e => by rcases h.window_iff.mp e with k | k <;> simp [k] at link
  have run : l.framingRun = 0 := of_not_not fun e => by rcases h.framingRun.2 e with k | k <;> simp [k] at link
  exact ⟨timer, window, h.windowCount window, h.goodMarks.2 (by rintro e; simp [e] at link), run,
    h.retry_zero (link.imp_right .inl), h.buffer_zero (by rintro e; simp [e] at link)⟩

/-- A card is inserted in a DARK port's slot (R135). -/
theorem inserted (h : l.Ok) (dark : l.link = .dark) : (toAligning { l with presence := true }).Ok := by
  obtain ⟨timer, window, count, -, run, retry, buffer⟩ := h.stopped (.inr dark)
  have enabled := h.enable_of_on (by simp [dark])
  constructor <;> simp [toAligning, enabled, timer, window, count, run, retry, buffer, h.threshold, h.tallies]

/-- The port of a change of settings that enables it leaves OFF (R136). -/
theorem enabled (h : l.Ok) (off : l.link = .off) {x : PortSettings} (enable : x.enable = true)
    (threshold : 1 ≤ x.threshold ∧ x.threshold ≤ 255) :
    Ok (if (l.withSettings x).presence then (l.withSettings x).toAligning
      else { l.withSettings x with link := .dark }) := by
  obtain ⟨timer, window, count, marks, run, retry, buffer⟩ := h.stopped (.inl off)
  cases present : l.presence <;> constructor <;>
    simp [LinkPort.withSettings, toAligning, present, enable, threshold, timer, window, count, marks, run, retry, buffer,
      h.tallies]

theorem toExchange (h : l.Ok) (link : l.link = .aligning ∨ l.link = .exchange) (now : Time) :
    (l.toExchange now).Ok := by
  have enabled := h.enable_of_on (by rintro e; simp [e] at link)
  have present := h.present (link.imp_right .inl)
  have retry := h.retry_le
  have faulted : l.retry ≠ 8 := fun e => by simp [retry.2 e] at link
  have buffer := h.buffer_zero (by rintro e; simp [e] at link)
  constructor <;>
    simp [LinkPort.toExchange, enabled, present, retry.1, faulted, buffer, h.threshold, h.tallies]

theorem toUp (h : l.Ok) (link : l.link = .exchange ∨ l.link = .up) (now : Time) {n : Nat} (range : 8 ≤ n ∧ n ≤ 64) :
    (l.toUp now n).Ok := by
  have enabled := h.enable_of_on (by rintro e; simp [e] at link)
  have present := h.present (.inr link)
  have marks := h.goodMarks.2 (by rintro e; simp [e] at link)
  constructor <;>
    simp [LinkPort.toUp, enabled, present, marks, range, h.threshold, h.tallies]

theorem afterRestart (h : l.Ok) (now : Time) : (l.afterRestart now).Ok := by
  have restarted : l.link = .up ∨ l.link = .exchange →
      Ok { l.toExchange now with retry := 0, bufferCount := 0 } := by
    intro link
    have enabled := h.enable_of_on (by rintro e; simp [e] at link)
    have present := h.present (.inr link.symm)
    constructor <;> simp [LinkPort.toExchange, enabled, present, h.threshold, h.tallies]
  have kept : l.link ≠ .up → Ok { l with bufferCount := 0 } := fun down =>
    { h with bufferCount := by simp [down] }
  unfold LinkPort.afterRestart
  split
  · next link => exact restarted (.inl link)
  · next link => exact restarted (.inr link)
  · next link => exact kept (by simp [link])
  · next link => exact kept (by simp [link])
  · next link => exact kept (by simp [link])
  · next link => exact kept (by simp [link])

end Ok

end LinkPort

end Sys2Proof.Machine
end

section
/-! PROOF. Proofs/Effects.lean: effects, each one operation on a link port or on the scheduling blocks with what the
commands that make it assure; every step is a chain of effects. A law that ties blocks to one another is kept by every
step when each effect keeps it. -/

namespace Sys2Proof.Machine

/-! ### Accounts -/

/-- What the laws of credit, in-flight counts, drain counts and slots speak of, but for the buffer counts. -/
structure Accounts where
  records : Port → List GrantRecord
  credit : Port → Nat
  inFlight : Port → Nat
  delivery : Port → List SlotNo
  queue : Port → List TxEntry
  slots : Bank 64 Slot
  drain : Dest → Nat
  tablesReady : Bool
  tableInit : Option Time

/-- Nothing granted, queued or held. -/
def Accounts.empty (ready : Bool) (init : Option Time) : Accounts where
  records _ := []
  credit _ := 0
  inFlight _ := 0
  delivery _ := []
  queue _ := []
  slots := Bank.fill .free
  drain _ := 0
  tablesReady := ready
  tableInit := init

namespace State

def accounts (s : State) : Accounts where
  records i := s.records i
  credit j := (s.arbiters.get j).credit
  inFlight j := (s.arbiters.get j).inFlight
  delivery j := (s.arbiters.get j).delivery
  queue j := (s.transmit.get j).queue
  slots := s.slots
  drain d := (s.portMap.get d).drain
  tablesReady := s.tablesReady
  tableInit := s.tableInit

theorem accounts_offer (s : State) (f : FaultRecord) : (s.offer f).accounts = s.accounts := by
  unfold offer
  split <;> rfl

theorem accounts_offerGroups (s : State) (gs : List (List FaultRecord)) : (s.offerGroups gs).accounts = s.accounts := by
  simp [accounts, records]

/-- An update of one cell that keeps an item of it keeps that item of every cell. -/
theorem item_upd {n : Nat} {α β : Type} (b : Bank n α) (i : Fin n) {f : α → α} (item : α → β)
    (keeps : ∀ x, item (f x) = item x) : (fun j => item ((b.upd i f).get j)) = fun j => item (b.get j) := by
  funext j
  rw [Bank.get_upd]
  split
  · exact keeps _
  · rfl

theorem accounts_updTx (s : State) (j : Port) {f : Transmit → Transmit} (queue : ∀ x, (f x).queue = x.queue) :
    (s.updTx j f).accounts = s.accounts := by
  simp only [accounts, updTx_transmit, item_upd s.transmit j Transmit.queue queue]
  rfl

theorem accounts_sendWord (s : State) (p : Port) (w : DownWord) : (s.sendWord p w).accounts = s.accounts := by
  unfold sendWord
  split
  · exact accounts_updTx s p fun _ => rfl
  · rfl

theorem accounts_withSettings (s : State) (p : Port) (x : PortSettings) :
    (s.updArb p (·.withSettings x)).accounts = s.accounts := by
  have item {β : Type} (item : Arbiter → β) := item_upd s.arbiters p (f := (·.withSettings x)) item
  simp only [accounts, updArb_arbiters, item Arbiter.credit fun _ => rfl, item Arbiter.inFlight fun _ => rfl,
    item Arbiter.delivery fun _ => rfl]
  rfl

theorem accounts_updEntry (s : State) (d : Dest) {f : MapEntry → MapEntry} (drain : ∀ x, (f x).drain = x.drain) :
    (s.updEntry d f).accounts = s.accounts := by
  simp only [accounts, updEntry_portMap, item_upd s.portMap d MapEntry.drain drain]
  rfl

/-- `r` is the first record with its tag on the list of ingress `i`. -/
def Leads (s : State) (i : Port) (r : GrantRecord) : Prop :=
  ∃ earlier later, s.records i = earlier ++ r :: later ∧ ∀ e ∈ earlier, e.tag ≠ r.tag

theorem leads_of_find? {s : State} {i : Port} {r : GrantRecord} {tag : Tag}
    (found : (s.records i).find? (fun r => r.tag = tag) = some r) : s.Leads i r := by
  obtain ⟨here, earlier, later, list, before⟩ := List.find?_eq_some_iff_append.mp found
  rw [decide_eq_true_eq] at here
  exact ⟨earlier, later, list, fun e mem => by simpa [here] using before e mem⟩

theorem leads_of_head {s : State} {i : Port} {r : GrantRecord} {rest : List GrantRecord}
    (list : s.records i = r :: rest) : s.Leads i r :=
  ⟨[], rest, list, fun _ mem => nomatch mem⟩

/-- The record `r` has been matched by a cell: it has left the list, and the cell is counted (R82, R179). -/
def matched (s : State) (i : Port) (r : GrantRecord) : State :=
  ((s.updGrants i fun g => g.remove r.tag).updLink i fun l => { l with tallies := l.tallies.addCellsIn }).countMeters
    .ingress i

end State

/-! ### Effects -/

/-- One effect on the accounts or the link ports. -/
inductive Effect (s : State) : State → Prop
  /-- Changes of link ports that keep their laws and buffer counts and take none from UP. -/
  | links {t : State} (same : t.accounts = s.accounts) (keeps : ∀ p, (s.links.get p).Ok → (t.links.get p).Ok)
      (buffer : ∀ p, (t.links.get p).bufferCount = (s.links.get p).bufferCount)
      (stays : ∀ p, s.link p = .up → t.link p = .up) : Effect s t
  /-- Teardown of a port whose own items may have changed at the same event, and its change of link state (R147). -/
  | leave {u : State} (p : Port) (f : LinkPort → LinkPort) (same : u.accounts = s.accounts)
      (others : ∀ q, q ≠ p → u.links.get q = s.links.get q)
      (keeps : (s.links.get p).Ok → (f { u.links.get p with bufferCount := 0 }).Ok)
      (buffer : ∀ l, (f l).bufferCount = l.bufferCount) : Effect s ((u.teardown p).updLink p f)
  | enter (p : Port) (n : Nat) (exchange : s.link p = .exchange) (range : 8 ≤ n ∧ n ≤ 64) :
      Effect s ((s.updLink p (LinkPort.toUp s.now n)).updArb p fun a => { a with credit := n })
  | rejoin (p : Port) (n : Nat) (up : s.link p = .up) (range : 8 ≤ n ∧ n ≤ 64) :
      Effect s ((s.leaveUp p id).enterUp p n)
  | credit (p : Port) (f : Arbiter → Nat) (bound : f (s.arbiters.get p) ≤ (s.links.get p).bufferCount) :
      Effect s (s.updArb p fun a => { a with credit := f a })
  | lapse (i : Port) (r : GrantRecord) (leads : s.Leads i r) : Effect s (s.lapse i r)
  | grant (j : Port) (x : Candidate) (eligible : s.eligible j = true) : Effect s (s.grantUnicast j x)
  | reserve (i : Port) (q : McastRequest) (k : SlotNo) (free : s.slots.get k = .free) :
      Effect s (s.grantMulticast i q k)
  /-- The cell of a matched record is handed off (R82, R83). -/
  | take (i : Port) (r : GrantRecord) (x : CellContent) (leads : s.Leads i r) :
      Effect s ((s.matched i r).handOff i r x)
  | deliver (j : Port) (k : SlotNo) (ks : List SlotNo) (eligible : s.eligible j = true)
      (head : (s.arbiters.get j).delivery = k :: ks) : Effect s (s.deliver j k)
  | complete (j : Port) (e : TxEntry) (es : List TxEntry) (queue : (s.transmit.get j).queue = e :: es) :
      Effect s (s.complete j e)
  /-- The completion of table initialisation (R39, R41). -/
  | tables (running : s.tableInit ≠ none) :
      Effect s { s with portMap := Bank.fill MapEntry.void, tablesReady := true, tableInit := none }
  /-- A full reset or the fabric restart (R149, R170). -/
  | clear {t : State} (empty : t.accounts = Accounts.empty t.tablesReady t.tableInit)
      (tables : (s.tableInit ≠ none → s.tablesReady = false) → t.tableInit ≠ none → t.tablesReady = false)
      (keeps : ∀ p, (s.links.get p).Ok → (t.links.get p).Ok) (buffer : ∀ p, (t.links.get p).bufferCount = 0) :
      Effect s t

/-- A chain of effects. -/
def State.Effects (s t : State) : Prop := Relation.ReflTransGen Effect s t

namespace State

variable {s t u : State}

namespace Effects

theorem refl (s : State) : s.Effects s := Relation.ReflTransGen.refl

theorem tail (h : s.Effects t) (e : Effect t u) : s.Effects u := Relation.ReflTransGen.tail h e

theorem still (h : s.Effects t) (same : u.accounts = t.accounts := by rfl) (links : u.links = t.links := by rfl) :
    s.Effects u :=
  h.tail (.links same (fun _ ok => links ▸ ok) (fun _ => by rw [links]) fun p up => by rwa [link, links])

theorem raise (h : s.Effects t) (k : EventKind) : s.Effects (t.raise k) := h.still

theorem emit (h : s.Effects t) (o : Output) : s.Effects (t.emit o) := h.still

theorem respond (h : s.Effects t) (l : MgmtLink) (code : Byte) (st : Status) (d : ResponseData) :
    s.Effects (t.respond l code st d) := h.still

theorem arrive (h : s.Effects t) (due : Time) : s.Effects (t.arrive due) := h.still

theorem offer (h : s.Effects t) (f : FaultRecord) : s.Effects (t.offer f) :=
  h.still (accounts_offer t f) (offer_links t f)

theorem offerGroups (h : s.Effects t) (gs : List (List FaultRecord)) : s.Effects (t.offerGroups gs) :=
  h.still (accounts_offerGroups t gs) (offerGroups_links t gs)

theorem sendWord (h : s.Effects t) (p : Port) (w : DownWord) : s.Effects (t.sendWord p w) :=
  h.still (accounts_sendWord t p w) (sendWord_links t p w)

theorem sendWords (h : s.Effects t) (w : DownWord) (ps : List Port) :
    s.Effects (ps.foldl (fun t p => t.sendWord p w) t) := by
  induction ps generalizing t with
  | nil => exact h
  | cons p ps ih => exact ih (h.sendWord p w)

/-! ### Link ports -/

/-- A change of one link port. -/
theorem port (h : s.Effects t) (p : Port) (f : LinkPort → LinkPort) (same : u.accounts = t.accounts)
    (links : u.links = t.links.upd p f) (keeps : (t.links.get p).Ok → (f (t.links.get p)).Ok)
    (buffer : (f (t.links.get p)).bufferCount = (t.links.get p).bufferCount)
    (stays : t.link p = .up → (f (t.links.get p)).link = .up) : s.Effects u := by
  have each {Q : LinkPort → LinkPort → Prop} (here : Q (t.links.get p) (f (t.links.get p))) (same : ∀ l, Q l l)
      (q : Port) : Q (t.links.get q) (u.links.get q) := by
    rw [links, Bank.get_upd]
    split
    · next e => exact e ▸ here
    · exact same _
  exact h.tail (.links same (each (Q := fun l m => l.Ok → m.Ok) keeps fun _ => id)
    (each (Q := fun l m => m.bufferCount = l.bufferCount) buffer fun _ => rfl)
    (each (Q := fun l m => l.link = .up → m.link = .up) stays fun _ => id))

theorem updLink (h : s.Effects t) (p : Port) {f : LinkPort → LinkPort}
    (keeps : (t.links.get p).Ok → (f (t.links.get p)).Ok)
    (buffer : (f (t.links.get p)).bufferCount = (t.links.get p).bufferCount)
    (stays : t.link p = .up → (f (t.links.get p)).link = .up) : s.Effects (t.updLink p f) :=
  h.port p f rfl rfl keeps buffer stays

theorem tallies (h : s.Effects t) (i : Port) {f : Tallies → Tallies} (keeps : ∀ {x : Tallies}, x.Ok → (f x).Ok) :
    s.Effects (t.updLink i fun l => { l with tallies := f l.tallies }) :=
  h.updLink i (fun ok => ok.withTallies (keeps ok.tallies)) rfl id

theorem framed (h : s.Effects t) (p : Port) : s.Effects (t.framed p) := h.updLink p (fun ok => ok.framed) rfl id

theorem leaveUp (h : s.Effects t) (p : Port) {f : LinkPort → LinkPort}
    (keeps : (t.links.get p).Ok → (f { u.links.get p with bufferCount := 0 }).Ok)
    (buffer : ∀ l, (f l).bufferCount = l.bufferCount)
    (same : u.accounts = t.accounts := by rfl)
    (others : ∀ q, q ≠ p → u.links.get q = t.links.get q := by exact fun _ _ => rfl) : s.Effects (u.leaveUp p f) :=
  ((h.tail (.leave p f same others keeps buffer)).raise _).offerGroups _

theorem enterUp (h : s.Effects t) {p : Port} {n : Nat} (exchange : t.link p = .exchange) (range : 8 ≤ n ∧ n ≤ 64) :
    s.Effects (t.enterUp p n) := (h.tail (.enter p n exchange range)).raise _

theorem enterExchange (h : s.Effects t) {p : Port} (aligning : t.link p = .aligning) : s.Effects (t.enterExchange p) :=
  (h.updLink p (f := LinkPort.toExchange t.now) (fun ok => ok.toExchange (.inl aligning) t.now) rfl
    fun up => by simp [aligning] at up).emit _

/-- Entry to FAULTED from EXCHANGE or UP by a port whose retry count or error counts may have risen at the event. -/
theorem enterFaulted (h : s.Effects t) {p : Port} {f : LinkPort → LinkPort}
    (link : t.link p = .exchange ∨ t.link p = .up)
    (kept : ∀ l, (f l).link = l.link ∧ (f l).bufferCount = l.bufferCount ∧ (f l).enable = l.enable ∧
      (f l).threshold = l.threshold ∧ (f l).goodMarks = l.goodMarks)
    (retry : (t.links.get p).Ok → (f (t.links.get p)).retry ≤ 8)
    (tallies : (t.links.get p).Ok → (f (t.links.get p)).tallies.Ok) : s.Effects ((t.updLink p f).enterFaulted p) := by
  obtain ⟨sameLink, buffer, enable, threshold, marks⟩ := kept (t.links.get p)
  unfold State.enterFaulted
  split
  · have torn : s.Effects (((t.updLink p f).teardown p).updLink p LinkPort.toFaulted) := by
      refine h.tail (.leave p LinkPort.toFaulted rfl (fun q ne => ?_) (fun ok => ?_) fun _ => rfl)
      · rw [updLink_links, Bank.get_upd_ne _ ne.symm]
      · rw [updLink_links, Bank.get_upd_self]
        exact LinkPort.toFaulted_ok ok link enable threshold marks (retry ok) rfl (tallies ok)
    exact ((torn.raise _).raise _).offerGroups _
  · next down =>
    have down : t.link p ≠ .up := fun up => down <| by
      rw [isUp_iff]
      simpa [State.link, sameLink] using up
    have faulted : s.Effects ((t.updLink p f).updLink p LinkPort.toFaulted) :=
      h.port p (fun l => (f l).toFaulted) rfl (by simp only [updLink_links, Bank.upd_upd])
        (fun ok => LinkPort.toFaulted_ok ok link enable threshold marks (retry ok) (buffer.trans (ok.buffer_zero down))
          (tallies ok)) buffer fun up => absurd up down
    exact (faulted.raise _).offer _

theorem checkError (h : s.Effects t) {p : Port} (link : t.link p = .exchange ∨ t.link p = .up) :
    s.Effects (t.checkError p) := by
  simp only [State.checkError, updLink_links, Bank.get_upd_self]
  split
  · exact h.enterFaulted link (fun _ => ⟨rfl, rfl, rfl, rfl, rfl⟩) (fun ok => ok.retry_le.1)
      fun ok => ok.tallies.addCheckError
  · next below => exact h.updLink p (fun ok => ok.countError link (Nat.lt_of_not_le below)) rfl id

/-- What arrives is used for alignment, discarded, or taken on an exchanging or UP port. -/
theorem receive (s : State) (p : Port) {f g : State → State}
    (exchanging : (s.framed p).link p = .exchange → s.Effects (f (s.framed p)))
    (up : (s.framed p).link p = .up → s.Effects (g (s.framed p))) : s.Effects (s.receive p f g) := by
  cases h : s.link p with
  | off => rw [receive_shut (.inl h)]; exact refl s
  | dark => rw [receive_shut (.inr (.inl h))]; exact refl s
  | faulted => rw [receive_shut (.inr (.inr h))]; exact refl s
  | aligning => rw [receive_aligning h]; exact (refl s).updLink p (fun ok => ok.unmarked) rfl id
  | exchange => rw [receive_exchange h]; exact exchanging (by rw [link_framed, h])
  | up => rw [receive_up h]; exact up (by rw [link_framed, h])

/-! ### Scheduling -/

/-- The first records of a list lapse, in order. -/
theorem lapseAll (h : s.Effects t) {i : Port} {rs rest : List GrantRecord} (list : t.records i = rs ++ rest) :
    s.Effects (t.lapseAll i rs) := by
  induction rs generalizing t with
  | nil => exact h
  | cons r rs ih =>
    refine ih (h.tail (.lapse i r (leads_of_head list))) ?_
    have : (t.grantLists.get i).records = r :: rs ++ rest := list
    simp [records, lapse_grantLists, GrantList.remove, this]

theorem offerCell (h : s.Effects t) (i : Port) (x : UpCell) : s.Effects (t.offerCell i x) := by
  unfold State.offerCell
  have list := List.takeWhile_append_dropWhile (p := fun r : GrantRecord => decide (r.tag ≠ x.tag)) (l := t.records i)
  split
  · next r rest match_ =>
    rw [match_] at list
    exact (h.lapseAll list.symm).tail (.take i r (carried x) (leads_of_head (records_lapseAll list.symm)))
  · exact ((h.tallies i fun ok => ok.addLate).raise _).offer _

theorem takeCredit (h : s.Effects t) (p : Port) (n : Nat) : s.Effects (t.takeCredit p n) := by
  simp only [State.takeCredit]
  split
  · exact ((h.tail (.credit p (fun _ => (t.links.get p).bufferCount) le_rfl)).raise _).offer _
  · next within => exact h.tail (.credit p (·.credit + n) (Nat.le_of_not_lt within))

/-- What a decision of an eligible arbiter delivers is the head of its delivery queue. -/
theorem delivery_of_decision {j : Port} {k : SlotNo} (h : t.decision j = .deliver k) :
    t.eligible j = true ∧ ∃ ks, (t.arbiters.get j).delivery = k :: ks := by
  have eligible : t.eligible j = true := Moves.eligible_of_decision (by simp [h])
  obtain ⟨head, -⟩ := (decision_deliver_iff eligible).mp h
  exact ⟨eligible, List.head?_eq_some_iff.mp head⟩

theorem decideAfresh (h : s.Effects t) (j : Port) : s.Effects (t.decideAfresh j) := by
  unfold State.decideAfresh
  split
  · exact h
  · next k decided =>
    obtain ⟨eligible, ks, head⟩ := delivery_of_decision decided
    exact h.tail (.deliver j k ks eligible head)
  · next x decided => exact h.tail (.grant j x (Moves.eligible_of_decision (by simp [decided])))

/-! ### Requests -/

theorem accountRefusal (h : s.Effects t) (p : Port) : s.Effects (t.accountRefusal p) :=
  (h.tallies p fun ok => ok.addRefused).raise _

theorem intakeWord (h : s.Effects t) (p : Port) (w : RequestWord) : s.Effects (t.intakeWord p w) := by
  unfold State.intakeWord
  split
  · have blocked : s.Effects (t.updIntake p fun q => { q with blocked := true }) := h.still
    exact ((blocked.accountRefusal p).offer _).sendWord _ _
  · simp only [State.join]
    split
    · exact Effects.sendWord h.still _ _
    · exact h.still

theorem resynced (h : s.Effects t) (p : Port) : s.Effects (t.resynced p) := by
  simp only [State.resynced]
  split
  · exact Effects.sendWord (h.sendWord p .resume).still _ _
  · exact Effects.sendWord h.still _ _

theorem absorbWord (h : s.Effects t) (i : Port) (w : RequestWord) : s.Effects (t.absorbWord i w).1 := by
  cases w with
  | request d c n =>
    simp only [State.absorbWord, absorbRequest]
    split
    · exact h
    · split <;> exact h.still
  | group g c =>
    simp only [State.absorbWord, absorbGroup]
    split
    · exact h
    · split
      · exact h
      · exact h.still

theorem sendBoth (h : s.Effects t) (i : Port) (w : Option DownWord) (resumes : Bool) :
    s.Effects (t.sendBoth i w resumes) := by
  have used : s.Effects { t with freeCount := t.freeCount + 1 } := h.still
  cases w <;> cases resumes
  · exact h
  · exact h.sendWord _ _
  · exact h.sendWord _ _
  · simp only [State.sendBoth]
    split
    · exact (used.sendWord _ _).sendWord _ _
    · exact (used.sendWord _ _).sendWord _ _

theorem absorb (h : s.Effects t) (i : Port) (w : RequestWord) (rest : List RequestWord) :
    s.Effects (t.absorb i w rest) := by
  have popped : s.Effects ((t.absorbWord i w).1.popped i rest) := (h.absorbWord i w).still
  have absorbed : s.Effects (t.absorbed i w rest) := by
    unfold State.absorbed
    split
    · exact popped.accountRefusal i
    · exact popped
  rw [absorb_eq]
  refine Effects.sendBoth ?_ i _ _
  split
  · exact absorbed.still
  · exact absorbed

end Effects

end State

end Sys2Proof.Machine
end

section
/-! PROOF. Proofs/Steps.lean: the effects of each command, and of a step. -/

namespace Sys2Proof.Machine.State

variable {s t u : State}

namespace Effects

theorem of_whenRunning {f : State → State} (effects : s.Effects (f s)) (run : whenRunning s f = .next t) :
    s.Effects t := by
  simp only [whenRunning, Host.Outcome.next.injEq] at run
  subst run
  split
  · exact refl s
  · exact effects

theorem mutating {l : MgmtLink} {code : Byte} {f : State → State} (effects : s.Effects (f s)) :
    s.Effects (s.mutating l code f) := by
  unfold State.mutating
  split
  · exact effects
  · exact (refl s).respond _ _ _ _

/-! ### Resets -/

/-- A full reset clears everything, whatever the part held before. -/
theorem fullReset (s u : State) (cause : StartCause) (strap : Plane) : s.Effects (u.fullReset cause strap) := by
  refine (refl s).tail (.clear ?_ (fun _ _ => rfl) (fun p _ => ?_) fun p => ?_)
  · simp [accounts, Accounts.empty, records, State.fullReset, State.reset, GrantList.empty, Arbiter.reset, Transmit.empty,
      MapEntry.void]
  · simp only [State.fullReset, Bank.get_tab]
    exact LinkPort.reset_ok _
  · simp [State.fullReset, LinkPort.reset]

theorem holdReset (s u : State) (cause : StartCause) : s.Effects (u.holdReset cause) := by
  refine (fullReset s u u.startCause u.plane).tail (.clear ?_ (fun _ _ => rfl) (fun _ ok => ok) fun p => ?_)
  · simp [accounts, Accounts.empty, records, State.holdReset, State.fullReset, State.reset, GrantList.empty, Arbiter.reset,
      Transmit.empty, MapEntry.void]
  · simp [State.holdReset, State.fullReset, LinkPort.reset]

theorem powerOn {strap : Plane} {presence : BitVec 32} {asserted : Bool}
    (run : execPowerOn strap presence asserted s = .next t) : s.Effects t := by
  simp only [execPowerOn, Host.Outcome.next.injEq] at run
  subst run
  split
  · exact holdReset s _ _
  · exact fullReset s _ _ _

theorem resetLineAssert (run : execResetLineAssert s = .next t) : s.Effects t := by
  simp only [execResetLineAssert, Host.Outcome.next.injEq] at run
  subst run
  split
  · exact refl s
  · exact holdReset s s _

theorem resetLineRelease {strap : Plane} (run : execResetLineRelease strap s = .next t) : s.Effects t := by
  simp only [execResetLineRelease, Host.Outcome.next.injEq] at run
  subst run
  split
  · exact fullReset s s _ strap
  · exact refl s

theorem tableInitialisationCompletion {due : Time} (run : execTableInitialisationCompletion due s = .next t) :
    s.Effects t := by
  refine of_whenRunning ?_ run
  split
  · next running =>
    have complete := ((refl s).arrive due).tail
      (.tables (by rw [arrive_tableInit, running]; exact Option.some_ne_none _))
    exact complete.still
  · exact refl s

/-! ### Link ports -/

/-- A presence change of a part that is not held in reset. -/
theorem presenceChange {p : Port} {present : Bool} (running : s.held = none)
    (run : execPresenceChange p present s = .next t) : s.Effects t := by
  simp only [execPresenceChange, Host.Outcome.next.injEq] at run
  subst run
  split
  · exact refl s
  · rw [if_neg (by simp [running])]
    have link : ((s.updLink p fun l => { l with presence := present }).raise .presenceChange).link p = s.link p := by
      simp [State.link]
    have dark (down : s.link p ≠ .up) (on : s.link p ≠ .off) (absent : present = false) :
        s.Effects (((s.updLink p fun l => { l with presence := present }).raise .presenceChange).updLink p
          LinkPort.toDark) :=
      (refl s).port p (fun l => LinkPort.toDark { l with presence := present }) rfl (by simp)
        (fun ok => LinkPort.toDark_ok ok on rfl absent rfl (ok.buffer_zero down) rfl) rfl fun up => absurd up down
    unfold presenceMove
    rw [link]
    split
    · next d _ =>
      exact (refl s).port p (fun l => LinkPort.toAligning { l with presence := true }) rfl (by simp)
        (fun ok => ok.inserted d) rfl fun up => by simp [d] at up
    · next d _ => exact dark (by simp [d]) (by simp [d]) rfl
    · next d _ => exact dark (by simp [d]) (by simp [d]) rfl
    · next d _ =>
      refine (refl s).leaveUp p (fun ok => ?_) (fun _ => rfl) rfl fun q ne => by simp [ne.symm]
      simp only [raise_links, updLink_links, Bank.get_upd_self]
      exact LinkPort.toDark_ok ok (by rw [State.link] at d; simp [d]) rfl rfl rfl rfl rfl
    · next inserted aligning exchange up _ =>
      refine Effects.raise ((refl s).updLink p (fun ok => ok.withPresence (fun d => ?_) fun d => ?_) rfl id) _
      · exact Bool.eq_false_iff.mpr (inserted d)
      · exact Bool.of_not_eq_false (d.elim aligning fun d => d.elim exchange up)

theorem mark {p : Port} (run : execMark p s = .next t) : s.Effects t := by
  refine of_whenRunning ?_ run
  split
  · next aligning =>
    simp only [goodMark]
    split
    · exact (refl s).enterExchange aligning
    · next few => exact (refl s).updLink p (fun ok => ok.marked aligning (Nat.lt_of_not_le few)) rfl id
  · exact receive s p (fun _ => (refl s).framed p) fun _ => (refl s).framed p

theorem alignmentLost (h : s.Effects t) {p : Port} (link : t.link p = .exchange ∨ t.link p = .up) :
    s.Effects (t.alignmentLost p) := by
  simp only [State.alignmentLost]
  split
  · exact (h.leaveUp p (fun ok => LinkPort.loseAlignment_ok ok link rfl rfl rfl rfl rfl rfl) fun _ => rfl).raise _
  · next down =>
    rw [isUp_iff] at down
    exact (h.updLink p (f := LinkPort.loseAlignment)
      (fun ok => LinkPort.loseAlignment_ok ok link rfl rfl rfl rfl (ok.buffer_zero down) rfl) rfl
      fun up => absurd up down).raise _

theorem framingFailed (h : s.Effects t) {p : Port} (link : t.link p = .exchange ∨ t.link p = .up) :
    s.Effects (t.framingFailed p) := by
  simp only [State.framingFailed]
  split
  · exact h.alignmentLost link
  · next few => exact h.updLink p (fun ok => ok.failedFrames link (Nat.lt_of_not_le few)) rfl id

theorem framingFailure {p : Port} (run : execFramingFailure p s = .next t) : s.Effects t := by
  refine of_whenRunning ?_ run
  split
  · exact refl s
  · exact refl s
  · exact refl s
  · exact (refl s).updLink p (fun ok => ok.unmarked) rfl id
  · next link => exact (refl s).framingFailed (.inl link)
  · next link => exact (refl s).framingFailed (.inr link)

theorem failedWord {p : Port} (run : execFailedWord p s = .next t) : s.Effects t :=
  have framed := (refl s).framed p
  of_whenRunning (receive s p (fun link => framed.checkError (.inl link)) fun link => framed.checkError (.inr link)) run

theorem hello {p : Port} {n : Fin 128} (run : execHello p n s = .next t) : s.Effects t := by
  have framed := (refl s).framed p
  refine of_whenRunning (receive s p (fun exchange => ?_) fun up => ?_) run
  · simp only [helloInExchange]
    split
    · exact framed
    · exact framed.enterUp exchange (by omega)
  · simp only [helloInUp]
    split
    · exact framed
    · exact framed.tail (.rejoin p _ up (by omega))

theorem exchangeTimerExpiry {p : Port} {due : Time} (run : execExchangeTimerExpiry p due s = .next t) :
    s.Effects t := by
  refine of_whenRunning ?_ run
  split
  · next running =>
    have exchange : (s.arrive due).link p = .exchange := running.1
    simp only [exchangeExpired]
    split
    · next few =>
      have retried : s.Effects (((s.arrive due).updLink p fun l => { l with retry := l.retry + 1 }).updLink p fun l =>
          { l with exchangeTimer := some ((s.arrive due).now + linkPeriod) }) :=
        ((refl s).arrive due).port p (fun l =>
          { l with retry := l.retry + 1, exchangeTimer := some ((s.arrive due).now + linkPeriod) }) rfl (by simp)
          (fun ok => ok.retried exchange few _) rfl id
      exact retried.emit _
    · refine ((refl s).arrive due).enterFaulted (.inl exchange) (fun _ => ⟨rfl, rfl, rfl, rfl, rfl⟩) (fun ok => ?_)
        fun ok => ok.tallies
      have below : ((s.arrive due).links.get p).retry ≠ 8 := fun e =>
        absurd (exchange.symm.trans (ok.retry_le.2 e)) (by decide)
      exact Nat.lt_of_le_of_ne ok.retry_le.1 below
  · exact refl s

theorem checkErrorWindowExpiry {p : Port} {due : Time} (run : execCheckErrorWindowExpiry p due s = .next t) :
    s.Effects t := by
  refine of_whenRunning ?_ run
  split
  · next running =>
    exact ((refl s).arrive due).updLink p (fun ok => ok.restartWindow (by simp [running]) _) rfl id
  · exact refl s

/-! ### Words and cells -/

theorem request {p : Port} {d : Dest} {c : Cls} {n : Fin 16} (run : execRequest p d c n s = .next t) : s.Effects t := by
  have framed := (refl s).framed p
  refine of_whenRunning (receive s p (fun _ => framed) fun up => ?_) run
  split
  · exact framed.checkError (.inr up)
  · exact framed.intakeWord p _

theorem groupRequest {p : Port} {g : Group} {c : Cls} (run : execGroupRequest p g c s = .next t) : s.Effects t :=
  have framed := (refl s).framed p
  of_whenRunning (receive s p (fun _ => framed) fun _ => framed.intakeWord p (.group g c)) run

theorem resync {p : Port} (run : execResync p s = .next t) : s.Effects t :=
  have framed := (refl s).framed p
  of_whenRunning (receive s p (fun _ => framed) fun _ => framed.resynced p) run

theorem creditReturn {p : Port} {n : Fin 32} (run : execCredit p n s = .next t) : s.Effects t := by
  have framed := (refl s).framed p
  refine of_whenRunning (receive s p (fun _ => framed) fun up => ?_) run
  split
  · exact framed.checkError (.inr up)
  · exact framed.takeCredit p _

theorem cell {p : Port} {x : UpCell} (run : execCell p x s = .next t) : s.Effects t := by
  have framed := (refl s).framed p
  refine of_whenRunning (receive s p (fun _ => framed) fun up => ?_) run
  split
  · exact framed.checkError (.inr up)
  · exact framed.offerCell p x

/-! ### The part's own decisions -/

theorem absorption (run : execAbsorption s = .next t) : s.Effects t := by
  refine of_whenRunning ?_ run
  split
  · exact refl s
  · split
    · exact refl s
    · exact (refl s).absorb _ _ _

theorem unicastGrantDecision {j : Port} {chosen : Option Candidate}
    (run : execUnicastGrantDecision j chosen s = .next t) : s.Effects t := by
  have decides (refused : Bool) : s.Effects (if refused then s.decideAfresh j else
      match s.decision j with
      | .grant x => s.grantUnicast j x
      | .none | .deliver _ => s) := by
    cases refused
    · rw [if_neg Bool.false_ne_true]
      split
      · next x decided => exact (refl s).tail (.grant j x (Moves.eligible_of_decision (by simp [decided])))
      · exact refl s
      · exact refl s
    · exact (refl s).decideAfresh j
  exact of_whenRunning (decides _) run

theorem deliveryDecision {j : Port} (run : execDeliveryDecision j s = .next t) : s.Effects t := by
  refine of_whenRunning ?_ run
  split
  · next k decided =>
    obtain ⟨eligible, ks, head⟩ := delivery_of_decision decided
    exact (refl s).tail (.deliver j k ks eligible head)
  · exact refl s
  · exact refl s

theorem allocatorDecision (run : execAllocatorDecision s = .next t) : s.Effects t := by
  refine of_whenRunning ?_ run
  split
  · next i k _ found =>
    split
    · have free : decide (s.slots.get k = .free) = true :=
        List.find?_some (p := fun k => decide (s.slots.get k = .free)) found
      exact (refl s).tail (.reserve i _ k (of_decide_eq_true free))
    · exact refl s
  · exact refl s

theorem grantExpiry {p : Port} {tag : Tag} {due : Time} (run : execGrantExpiry p tag due s = .next t) :
    s.Effects t := by
  refine of_whenRunning ?_ run
  split
  · next r found =>
    split
    · exact ((refl s).arrive due).tail (.lapse p r (leads_of_find? found))
    · exact refl s
  · exact refl s

theorem transmissionStart {j : Port} (run : execTransmissionStart j s = .next t) : s.Effects t := by
  refine of_whenRunning ?_ run
  simp only
  split
  · split
    · exact Effects.emit ((refl s).still (u := s.updTx j fun x => { x with sending := true })
        (accounts_updTx s j fun _ => rfl)) _
    · exact refl s
  · exact refl s

theorem transmitCompletion {j : Port} (run : execTransmitCompletion j s = .next t) : s.Effects t := by
  refine of_whenRunning ?_ run
  split
  · next e es queue =>
    split
    · exact (refl s).tail (.complete j e es queue)
    · exact refl s
  · exact refl s

theorem controlWordTransmission {j : Port} (run : execControlWordTransmission j s = .next t) : s.Effects t := by
  refine of_whenRunning ?_ run
  simp only
  split
  · next w ws waiting =>
    split
    · exact Effects.emit ((refl s).still (u := s.updTx j fun x => { x with words := ws })
        (accounts_updTx s j fun _ => rfl)) _
    · exact refl s
  · rw [sendFill_eq]
    split
    · exact (refl s).emit _
    · exact refl s

/-! ### Settings, restart and the Port Map -/

theorem settingsArg_threshold {enable hold policy sole turn threshold : Byte} {x : PortSettings}
    (h : settingsArg enable hold policy sole turn threshold = some x) : 1 ≤ x.threshold ∧ x.threshold ≤ 255 := by
  simp only [settingsArg, Option.bind_eq_bind, Option.bind_eq_some_iff, Option.ite_none_left_eq_some,
    Option.some.injEq] at h
  obtain ⟨e, -, ho, -, pol, -, src, -, k, -, positive, rfl⟩ := h
  exact ⟨Nat.one_le_iff_ne_zero.mpr positive, Nat.le_of_lt_succ threshold.isLt⟩

/-- The move of a port by its enable field, behind the change of its settings at the same event. -/
theorem applyEnable (h : s.Effects t) (p : Port) {x : PortSettings} (threshold : 1 ≤ x.threshold ∧ x.threshold ≤ 255)
    (same : u.accounts = t.accounts) (links : u.links = t.links.upd p (·.withSettings x)) :
    s.Effects (u.applyEnable p x.enable) := by
  have settled (agrees : t.link p = .off ↔ x.enable = false) : s.Effects u :=
    h.port p (·.withSettings x) same links (fun ok => ok.withSettings threshold agrees) rfl id
  have off (down : t.link p ≠ .up) (disabled : x.enable = false) : s.Effects (u.updLink p LinkPort.toOff) :=
    h.port p (fun l => (l.withSettings x).toOff) same (by simp [links])
      (fun ok => LinkPort.toOff_ok ok disabled threshold (ok.buffer_zero down) rfl) rfl fun up => absurd up down
  have link : u.link p = t.link p := by simp [State.link, links, LinkPort.withSettings]
  unfold State.applyEnable
  rw [link]
  split
  · next d enabled =>
    refine h.port p (fun l => if (l.withSettings x).presence then (l.withSettings x).toAligning
      else { l.withSettings x with link := .dark }) same (by simp [links]) (fun ok => ok.enabled d enabled threshold) ?_
      fun up => by simp [d] at up
    split <;> rfl
  · next d disabled => exact settled (by simp [d, disabled])
  · next d disabled =>
    refine h.leaveUp p (fun ok => ?_) (fun _ => rfl) same fun q ne => by rw [links, Bank.get_upd_ne _ ne.symm]
    rw [links, Bank.get_upd_self]
    exact LinkPort.toOff_ok ok disabled threshold rfl rfl
  · next d disabled => exact off (by simp [d]) disabled
  · next d disabled => exact off (by simp [d]) disabled
  · next d disabled => exact off (by simp [d]) disabled
  · next d disabled => exact off (by simp [d]) disabled
  all_goals
    next d enabled => exact settled (by simp [d, enabled])

theorem setPort (h : s.Effects t) (p : Port) {x : PortSettings} (threshold : 1 ≤ x.threshold ∧ x.threshold ≤ 255) :
    s.Effects (t.setPort p x) := by
  have same : ((t.updLink p (·.withSettings x)).updArb p (·.withSettings x)).accounts = t.accounts :=
    accounts_withSettings (t.updLink p (·.withSettings x)) p x
  simp only [State.setPort]
  split
  · exact h.applyEnable p threshold ((accounts_sendWord _ _ _).trans same) (sendWord_links _ _ _)
  · exact h.applyEnable p threshold same rfl

theorem setPortCommand {l : MgmtLink} {port enable hold policy sole turn threshold : Byte}
    (run : execSetPort l port enable hold policy sole turn threshold s = .next t) : s.Effects t := by
  refine of_whenRunning (mutating ?_) run
  split
  · next settings => exact ((refl s).setPort _ (settingsArg_threshold settings)).respond _ _ _ _
  · exact (refl s).respond _ _ _ _

theorem readPort {l : MgmtLink} {port : Byte} (run : execReadPort l port s = .next t) : s.Effects t := by
  refine of_whenRunning ?_ run
  split
  · next p _ =>
    have cleared : s.Effects (s.updLink p (·.clearSticky l)) :=
      (refl s).updLink p (fun ok => ok.clearSticky l) (by cases l <;> rfl) fun up => by cases l <;> exact up
    exact cleared.respond _ _ _ _
  · exact (refl s).respond _ _ _ _

theorem sendHellos (h : s.Effects t) (ps : List Port) : s.Effects (ps.foldl (fun t p => t.sendHello p) t) := by
  induction ps generalizing t with
  | nil => exact h
  | cons p ps ih => exact ih (h.emit _)

theorem fabricRestart {l : MgmtLink} (run : execFabricRestart l s = .next t) : s.Effects t := by
  refine of_whenRunning (mutating (Effects.respond ?_ _ _ _ _)) run
  have cleared : s.Effects { s.clearScheduling with links := Bank.tab fun p => (s.links.get p).afterRestart s.now } := by
    refine (refl s).tail (.clear ?_ id (fun p ok => ?_) fun p => ?_)
    · simp [accounts, Accounts.empty, records, clearScheduling, GrantList.empty, Arbiter.idle, Transmit.empty]
    · simp only [Bank.get_tab]
      exact ok.afterRestart s.now
    · simp only [Bank.get_tab, afterRestart_bufferCount]
  simp only [State.restart]
  refine Effects.sendHellos ?_ _
  split
  · exact cleared.raise _
  · exact cleared

theorem applyStaged (h : s.Effects t) (e : StagedEntry) : s.Effects (t.applyStaged e) := by
  have mapped : s.Effects (t.updEntry e.dest fun x => { x with map := e.map }) :=
    h.still (accounts_updEntry t e.dest fun _ => rfl)
  simp only [State.applyStaged, withdraw]
  split
  · exact Effects.sendWords mapped.still _ _
  · exact mapped

theorem applyAll (h : s.Effects t) (es : List StagedEntry) : s.Effects (State.applyAll es t).1 := by
  induction es generalizing t with
  | nil => exact h
  | cons e es ih => exact ih (h.applyStaged e)

theorem commitMap {l : MgmtLink} (run : execCommitMap l s = .next t) : s.Effects t := by
  refine of_whenRunning (mutating ?_) run
  split
  · exact (refl s).respond _ _ _ _
  · split
    · exact (refl s).respond _ _ _ _
    · exact ((refl s).applyAll s.staging).still

theorem clearTallies {l : MgmtLink} {port : Byte} (run : execClearTallies l port s = .next t) : s.Effects t := by
  refine of_whenRunning (mutating ?_) run
  split
  · have cleared : s.Effects { s with links := Bank.tab fun p => (s.links.get p).clearTallies } := by
      refine (refl s).tail (.links rfl (fun p ok => ?_) (fun p => ?_) fun p up => ?_)
      · rw [Bank.get_tab]
        exact ok.withTallies Tallies.Ok.zero
      · rw [Bank.get_tab]
        rfl
      · rw [State.link, Bank.get_tab]
        exact up
    exact cleared.respond _ _ _ _
  · split
    · exact Effects.respond ((refl s).tallies _ fun _ => Tallies.Ok.zero) _ _ _ _
    · exact (refl s).respond _ _ _ _

/-! ### Steering, events, meters and tables: nothing of the accounts or the link ports -/

/-- A command that answers, behind changes outside the accounts and the link ports. -/
theorem answered (h : s.Effects t) (l : MgmtLink) (code : Byte) (st : Status) (d : ResponseData)
    (same : u.accounts = t.accounts := by rfl) (links : u.links = t.links := by rfl) :
    s.Effects (u.respond l code st d) :=
  (h.still same links).respond l code st d

theorem claimTimerExpiry {due : Time} (run : execClaimTimerExpiry due s = .next t) : s.Effects t := by
  refine of_whenRunning ?_ run
  split
  · exact (refl s).still
  · exact refl s

theorem meterGateExpiry {m : Chan} {due : Time} (run : execMeterGateExpiry m due s = .next t) : s.Effects t := by
  refine of_whenRunning ?_ run
  split
  · exact (refl s).still
  · exact refl s

theorem messageCheckFailure {l : MgmtLink} (run : execMessageCheckFailure l s = .next t) : s.Effects t := by
  refine of_whenRunning ?_ run
  split <;> exact (refl s).still

theorem claim {l : MgmtLink} (run : execClaim l s = .next t) : s.Effects t := by
  refine of_whenRunning ?_ run
  split <;> exact (refl s).answered _ _ _ _

theorem refresh {l : MgmtLink} (run : execRefresh l s = .next t) : s.Effects t := by
  refine of_whenRunning ?_ run
  split <;> exact (refl s).answered _ _ _ _

theorem release {l : MgmtLink} (run : execRelease l s = .next t) : s.Effects t := by
  refine of_whenRunning ?_ run
  split <;> exact (refl s).answered _ _ _ _

theorem setTiming {l : MgmtLink} {window timeout : Byte} (run : execSetTiming l window timeout s = .next t) :
    s.Effects t := by
  refine of_whenRunning (mutating ?_) run
  split <;> exact (refl s).answered _ _ _ _

theorem setView (h : s.Effects t) (l : MgmtLink) (v : EventView) : s.Effects (t.setView l v) := by
  cases l <;> exact h.still

theorem clearEvents {l : MgmtLink} {kinds : BitVec 16} (run : execClearEvents l kinds s = .next t) : s.Effects t := by
  refine of_whenRunning ?_ run
  split
  · exact ((refl s).setView l _).respond _ _ _ _
  · exact (refl s).respond _ _ _ _

theorem setMask {l : MgmtLink} {kinds : BitVec 16} (run : execSetMask l kinds s = .next t) : s.Effects t := by
  refine of_whenRunning ?_ run
  split
  · exact ((refl s).setView l _).respond _ _ _ _
  · exact (refl s).respond _ _ _ _

theorem clearCapture {l : MgmtLink} (run : execClearCapture l s = .next t) : s.Effects t :=
  of_whenRunning (mutating ((refl s).answered _ _ _ _)) run

theorem startMeter {l : MgmtLink} {chan port direction gate : Byte}
    (run : execStartMeter l chan port direction gate s = .next t) : s.Effects t := by
  refine of_whenRunning (mutating ?_) run
  split
  · split <;> exact (refl s).answered _ _ _ _
  · exact (refl s).respond _ _ _ _

theorem stopMeter {l : MgmtLink} {chan : Byte} (run : execStopMeter l chan s = .next t) : s.Effects t := by
  refine of_whenRunning (mutating ?_) run
  split <;> exact (refl s).answered _ _ _ _

theorem readMeter {l : MgmtLink} {chan : Byte} (run : execReadMeter l chan s = .next t) : s.Effects t := by
  refine of_whenRunning ?_ run
  simp only
  split
  · split <;> exact (refl s).respond _ _ _ _
  · exact (refl s).respond _ _ _ _

theorem stageMap {l : MgmtLink} {dest state port : Byte} (run : execStageMap l dest state port s = .next t) :
    s.Effects t := by
  refine of_whenRunning (mutating ?_) run
  split
  · exact (refl s).respond _ _ _ _
  · split
    · split
      · exact (refl s).answered _ _ _ _
      · split <;> exact (refl s).answered _ _ _ _
    · exact (refl s).respond _ _ _ _

theorem discardStaging {l : MgmtLink} (run : execDiscardStaging l s = .next t) : s.Effects t :=
  of_whenRunning (mutating ((refl s).answered _ _ _ _)) run

theorem writeGroup {l : MgmtLink} {g : BitVec 16} {valid prune : Byte} {members : List Byte}
    (run : execWriteGroup l g valid prune members s = .next t) : s.Effects t := by
  refine of_whenRunning (mutating ?_) run
  split
  · exact (refl s).respond _ _ _ _
  · split <;> exact (refl s).answered _ _ _ _

/-- A command that only answers. -/
theorem answers {l : MgmtLink} {code : Byte} {st : Status} {d : State → ResponseData}
    (run : whenRunning s (fun s => s.respond l code st (d s)) = .next t) : s.Effects t :=
  of_whenRunning ((refl s).respond _ _ _ _) run

theorem readMap {l : MgmtLink} (run : execReadMap l s = .next t) : s.Effects t := by
  refine of_whenRunning ?_ run
  split <;> exact (refl s).respond _ _ _ _

theorem readGroup {l : MgmtLink} {g : BitVec 16} (run : execReadGroup l g s = .next t) : s.Effects t := by
  refine of_whenRunning ?_ run
  split
  · exact (refl s).respond _ _ _ _
  · split <;> exact (refl s).respond _ _ _ _

theorem readRequests {l : MgmtLink} {port : Byte} (run : execReadRequests l port s = .next t) : s.Effects t := by
  refine of_whenRunning ?_ run
  split <;> exact (refl s).respond _ _ _ _

theorem readTallies {l : MgmtLink} {port : Byte} (run : execReadTallies l port s = .next t) : s.Effects t := by
  refine of_whenRunning ?_ run
  split <;> exact (refl s).respond _ _ _ _

end Effects

/-- While the part is held in reset, `t` is `s` with a new presence level on one port (R170). -/
def LevelKept (s t : State) : Prop :=
  s.held ≠ none ∧ ∃ (p : Port) (present : Bool), t = s.updLink p fun l => { l with presence := present }

theorem levelKept_of_presenceChange {p : Port} {present : Bool} (held : s.held ≠ none)
    (run : execPresenceChange p present s = .next t) : s.LevelKept t := by
  simp only [execPresenceChange, Host.Outcome.next.injEq, Option.isSome_iff_ne_none, ne_eq, held, not_false_eq_true,
    if_true] at run
  subst run
  refine ⟨held, p, present, ?_⟩
  split
  · next same =>
    rw [updLink, Bank.upd_eq_self]
    rw [← same]
  · rfl

open Effects in
/-- Every command is a chain of effects, but for a presence change of a part that is held in reset. -/
theorem effects_of_exec {c : Instr} (run : exec c s = .next t) : s.Effects t ∨ s.LevelKept t := by
  cases c with
  | presenceChange =>
    by_cases running : s.held = none
    · exact .inl (presenceChange running run)
    · exact .inr (levelKept_of_presenceChange running run)
  | powerOn => exact .inl (powerOn run)
  | resetLineAssert => exact .inl (resetLineAssert run)
  | resetLineRelease => exact .inl (resetLineRelease run)
  | tableInitialisationCompletion => exact .inl (tableInitialisationCompletion run)
  | mark => exact .inl (mark run)
  | framingFailure => exact .inl (framingFailure run)
  | failedWord => exact .inl (failedWord run)
  | hello => exact .inl (hello run)
  | request => exact .inl (request run)
  | groupRequest => exact .inl (groupRequest run)
  | resync => exact .inl (resync run)
  | credit => exact .inl (creditReturn run)
  | cell => exact .inl (cell run)
  | absorption => exact .inl (absorption run)
  | unicastGrantDecision => exact .inl (unicastGrantDecision run)
  | deliveryDecision => exact .inl (deliveryDecision run)
  | allocatorDecision => exact .inl (allocatorDecision run)
  | grantExpiry => exact .inl (grantExpiry run)
  | transmissionStart => exact .inl (transmissionStart run)
  | transmitCompletion => exact .inl (transmitCompletion run)
  | exchangeTimerExpiry => exact .inl (exchangeTimerExpiry run)
  | checkErrorWindowExpiry => exact .inl (checkErrorWindowExpiry run)
  | claimTimerExpiry => exact .inl (claimTimerExpiry run)
  | meterGateExpiry => exact .inl (meterGateExpiry run)
  | messageCheckFailure => exact .inl (messageCheckFailure run)
  | unknownCommand => exact .inl (answers (d := fun _ => .none) run)
  | identify => exact .inl (answers (d := fun s => .identity (s.identity _)) run)
  | claim => exact .inl (claim run)
  | refresh => exact .inl (refresh run)
  | release => exact .inl (release run)
  | setTiming => exact .inl (setTiming run)
  | setPort => exact .inl (setPortCommand run)
  | readPort => exact .inl (readPort run)
  | fabricRestart => exact .inl (fabricRestart run)
  | stageMap => exact .inl (stageMap run)
  | discardStaging => exact .inl (discardStaging run)
  | commitMap => exact .inl (commitMap run)
  | readStaging => exact .inl (answers (d := fun s => .staging s.staging s.holder) run)
  | readMap => exact .inl (readMap run)
  | writeGroup => exact .inl (writeGroup run)
  | readGroup => exact .inl (readGroup run)
  | readRequests => exact .inl (readRequests run)
  | readEvents => exact .inl (answers (d := fun s => .events (s.view _).visible (s.view _).mask) run)
  | clearEvents => exact .inl (clearEvents run)
  | setMask => exact .inl (setMask run)
  | readCapture => exact .inl (answers (d := fun s => .capture s.capture s.moreFaults) run)
  | clearCapture => exact .inl (clearCapture run)
  | readTallies => exact .inl (readTallies run)
  | clearTallies => exact .inl (clearTallies run)
  | startMeter => exact .inl (startMeter run)
  | stopMeter => exact .inl (stopMeter run)
  | readMeter => exact .inl (readMeter run)
  | controlWordTransmission => exact .inl (controlWordTransmission run)

theorem law_of_effects {P : State → Prop} (keep : ∀ s t, P s → Effect s t → P t) (h : P s) (effects : s.Effects t) :
    P t := by
  induction effects with
  | refl => exact h
  | tail _ e ih => exact keep _ _ ih e

/-- A law that each effect keeps is kept by every step, if presence levels do not matter to it while the part is held;
the clock and the queue of commands are not of the accounts. -/
theorem law_of_step {P : State → Prop} (keep : ∀ s t, P s → Effect s t → P t)
    (level : ∀ u v, u.held = s.held → u.links = s.links → P u → u.LevelKept v → P v) (h : P s)
    (run : step s = .next t) : P t := by
  unfold step at run
  split at run
  · cases run
    exact law_of_effects keep h (Effects.refl s).still
  · next c rest _ =>
    have queued : P { s with pending := rest } := law_of_effects keep h (Effects.refl s).still
    rcases effects_of_exec run with effects | kept
    · exact law_of_effects keep queued effects
    · exact level { s with pending := rest } t rfl rfl queued kept

end Sys2Proof.Machine.State
end

section
/-! PROOF. Proofs/Counts.lean: records counted over all lists, and what each effect does to records and queues. -/

namespace Sys2Proof.Machine.State

variable {s t : State}

/-! ### Records over all lists -/

/-- The records on all lists with a property. -/
def recordCount (s : State) (q : GrantRecord → Bool) : Nat :=
  ((List.finRange 32).map fun i => (s.records i).countP q).sum

theorem recordsNaming_eq (s : State) (j : Port) : s.recordsNaming j = s.recordCount (·.naming j) := rfl

theorem recordsReserving_eq (s : State) (k : SlotNo) : s.recordsReserving k = s.recordCount (·.reserves k) := rfl

/-- Only the list of `i` has changed: the count changes as its own does. -/
theorem recordCount_change {i : Port} (others : ∀ k, k ≠ i → t.records k = s.records k) (q : GrantRecord → Bool) :
    t.recordCount q + (s.records i).countP q = s.recordCount q + (t.records i).countP q := by
  unfold recordCount
  rw [← sum_ports_single i ((s.records i).countP q), ← sum_ports_single i ((t.records i).countP q), ← List.sum_map_add,
    ← List.sum_map_add]
  congr 2
  funext k
  by_cases hk : k = i
  · subst hk
    simp [Nat.add_comm]
  · simp [hk, others k hk]

theorem records_updGrants (s : State) (i k : Port) (f : GrantList → GrantList) :
    (s.updGrants i f).records k = if i = k then (f (s.grantLists.get k)).records else s.records k := by
  simp only [records, updGrants_grantLists, Bank.get_upd]
  split <;> rfl

/-- The first record with its tag leaves its list. -/
theorem recordCount_remove {i : Port} {r : GrantRecord} (leads : s.Leads i r) (q : GrantRecord → Bool) :
    (s.updGrants i fun g => g.remove r.tag).recordCount q + (if q r then 1 else 0) = s.recordCount q := by
  obtain ⟨earlier, later, list, before⟩ := leads
  have rest : (s.updGrants i fun g => g.remove r.tag).records i = earlier ++ later := by
    rw [records_updGrants, if_pos rfl, GrantList.remove]
    exact (congrArg _ list).trans (eraseP_tag before rfl)
  have change := recordCount_change (s := s) (t := s.updGrants i fun g => g.remove r.tag) (i := i)
    (fun k hk => by rw [records_updGrants, if_neg hk.symm]) q
  rw [rest, list] at change
  simp only [List.countP_append, List.countP_cons] at change
  omega

/-- A record joins a list at its tail. -/
theorem recordCount_join {i : Port} {r : GrantRecord} {f : GrantList → GrantList}
    (join : (f (s.grantLists.get i)).records = s.records i ++ [r]) (q : GrantRecord → Bool) :
    (s.updGrants i f).recordCount q = s.recordCount q + if q r then 1 else 0 := by
  have change := recordCount_change (s := s) (t := s.updGrants i f) (i := i)
    (fun k hk => by rw [records_updGrants, if_neg hk.symm]) q
  rw [records_updGrants, if_pos rfl, join] at change
  simp only [List.countP_append, List.countP_singleton] at change
  omega

theorem recordCount_congr {s t : State} (h : t.records = s.records) (q : GrantRecord → Bool) :
    t.recordCount q = s.recordCount q := by
  rw [recordCount, recordCount, h]

theorem mem_of_mem_remove {i k : Port} {r x : GrantRecord}
    (mem : x ∈ (s.updGrants i fun g => g.remove r.tag).records k) :
    x ∈ s.records k := by
  rw [records_updGrants] at mem
  split at mem
  · exact List.mem_of_mem_eraseP mem
  · exact mem

end Sys2Proof.Machine.State
end

section
/-! PROOF. Proofs/Balances.lean: in-flight counts, credit and link ports, each law shown for one effect. -/

namespace Sys2Proof.Machine.State

variable {s t u : State}

/-! ### What the operations leave of lists, arbiters, transmit queues and slots -/

theorem leaveUp_accounts (s : State) (p : Port) (f : LinkPort → LinkPort) :
    (s.leaveUp p f).accounts = (s.teardown p).accounts := by
  rw [leaveUp, accounts_offerGroups]
  rfl

theorem sendWord_queue (s : State) (p j : Port) (w : DownWord) :
    ((s.sendWord p w).transmit.get j).queue = (s.transmit.get j).queue :=
  congrFun (congrArg Accounts.queue (accounts_sendWord s p w)) j

theorem lapse_queue (s : State) (i j : Port) (r : GrantRecord) :
    ((s.lapse i r).transmit.get j).queue = (s.transmit.get j).queue := by
  rw [lapse, sendWord_queue]
  simp

theorem lapse_records (s : State) (i : Port) (r : GrantRecord) :
    (s.lapse i r).records = (s.updGrants i fun g => g.remove r.tag).records := by
  funext k
  rw [records, records, lapse_grantLists]
  rfl

/-- The state in which a record is placed: an older record with the list's next tag has lapsed (R73). -/
def vacated (s : State) (i : Port) : State :=
  match (s.records i).find? fun r => r.tag = (s.grantLists.get i).nextTag with
  | some old => s.lapse i old
  | none => s

/-- What lapses keep holds where a record is placed. -/
theorem vacated_of_lapse {Q : State → Prop} (h : Q s) (lapse : ∀ i r, s.Leads i r → Q (s.lapse i r)) (i : Port) :
    Q (s.vacated i) := by
  unfold vacated
  split
  · next old found => exact lapse i old (leads_of_find? found)
  · exact h

/-- The record that is placed (R58, R119). -/
def newRecord (s : State) (i : Port) (target : GrantTarget) (c : Cls) : GrantRecord :=
  ⟨(s.grantLists.get i).nextTag, c, target, s.grantWindow.time.map (s.now + ·)⟩

/-- Placing a record: an older record with its tag lapses, the new one joins the tail, GRANT waits to be sent. -/
theorem placeRecord_eq (s : State) (i : Port) (target : GrantTarget) (c : Cls) :
    s.placeRecord i target c =
      ((s.vacated i).updGrants i fun g =>
        { records := g.records ++ [s.newRecord i target c], nextTag := (s.grantLists.get i).nextTag + 1 }).sendWord i
          (.grant (s.grantLists.get i).nextTag c target.item) := rfl

theorem placeRecord_records (s : State) (i : Port) (target : GrantTarget) (c : Cls) :
    (s.placeRecord i target c).records = ((s.vacated i).updGrants i fun g =>
      { records := g.records ++ [s.newRecord i target c], nextTag := (s.grantLists.get i).nextTag + 1 }).records := by
  funext k
  simp only [placeRecord_eq, records, sendWord_grantLists]

theorem placeRecord_recordCount (s : State) (i : Port) (target : GrantTarget) (c : Cls) (q : GrantRecord → Bool) :
    (s.placeRecord i target c).recordCount q =
      (s.vacated i).recordCount q + if q (s.newRecord i target c) then 1 else 0 := by
  rw [recordCount_congr (placeRecord_records s i target c)]
  exact recordCount_join rfl q

theorem placeRecord_links (s : State) (i : Port) (target : GrantTarget) (c : Cls) :
    (s.placeRecord i target c).links = (s.vacated i).links := by simp [placeRecord_eq]

theorem placeRecord_arbiters (s : State) (i : Port) (target : GrantTarget) (c : Cls) :
    (s.placeRecord i target c).arbiters = (s.vacated i).arbiters := by simp [placeRecord_eq]

theorem placeRecord_queue (s : State) (i j : Port) (target : GrantTarget) (c : Cls) :
    ((s.placeRecord i target c).transmit.get j).queue = ((s.vacated i).transmit.get j).queue := by
  rw [placeRecord_eq, sendWord_queue, updGrants_transmit]

/-- The count and the entry that the claims of a unicast grant take (R57). -/
def claimed (s : State) (x : Candidate) : State :=
  (s.setCount x.ingress x.dest x.cls (s.count x.ingress x.dest x.cls - 1)).updEntry x.dest fun e =>
    { e with drain := e.drain + 1 }

/-- A grant is not made, or its claims are taken: the record is placed, and the arbiter spends and moves on (R58). -/
theorem grantUnicast_cases (s : State) (j : Port) (x : Candidate) :
    s.grantUnicast j x = s ∨
      s.grantUnicast j x =
        ((s.claimed x).placeRecord x.ingress (.unicast x.dest j) x.cls).updArb j fun a => a.granted x := by
  unfold grantUnicast
  split
  · next u claims => exact .inr (by rw [(Moves.presentClaims_eq_some claims).1]; rfl)
  · exact .inl rfl

/-- The head of the multicast request queue and the slot that a grant of the allocator takes (R119). -/
def reserved (s : State) (i : Port) (q : McastRequest) (k : SlotNo) : State :=
  { s with
    mcastQueues := s.mcastQueues.upd i List.tail
    slots := s.slots.set k (.reserved i q.group q.cls)
    allocPtr := i + 1 }

theorem grantMulticast_eq (s : State) (i : Port) (q : McastRequest) (k : SlotNo) :
    s.grantMulticast i q k = (s.reserved i q k).placeRecord i (.multicast q.group k) q.cls := rfl

@[simp] theorem matched_arbiters (s : State) (i : Port) (r : GrantRecord) : (s.matched i r).arbiters = s.arbiters := rfl
@[simp] theorem matched_transmit (s : State) (i : Port) (r : GrantRecord) : (s.matched i r).transmit = s.transmit := rfl
@[simp] theorem matched_slots (s : State) (i : Port) (r : GrantRecord) : (s.matched i r).slots = s.slots := rfl

theorem fillSlot_arbiter (s : State) (i : Port) (g : Group) (c : Cls) (k : SlotNo) (x : CellContent) (j : Port) :
    ((s.fillSlot i g c k x).arbiters.get j).inFlight = (s.arbiters.get j).inFlight ∧
      ((s.fillSlot i g c k x).arbiters.get j).credit = (s.arbiters.get j).credit := by
  simp only [fillSlot]
  split
  · exact ⟨rfl, rfl⟩
  · simp only [Bank.get_tab]
    split <;> exact ⟨rfl, rfl⟩

theorem fillSlot_transmit (s : State) (i : Port) (g : Group) (c : Cls) (k : SlotNo) (x : CellContent) :
    (s.fillSlot i g c k x).transmit = s.transmit := by
  simp only [fillSlot]
  split <;> rfl

theorem handOff_records (s : State) (i : Port) (r : GrantRecord) (x : CellContent) :
    (s.handOff i r x).records = s.records := by
  unfold handOff
  split
  · rfl
  · simp only [fillSlot]
    split <;> rfl

/-! ### In-flight counts (R45) -/

theorem InFlightOk.congr (h : s.InFlightOk) (records : t.records = s.records)
    (inFlight : ∀ j, (t.arbiters.get j).inFlight = (s.arbiters.get j).inFlight)
    (queue : ∀ j, (t.transmit.get j).queue = (s.transmit.get j).queue) : t.InFlightOk := by
  intro j
  rw [inFlight, queue, recordsNaming_eq, recordCount_congr records]
  exact h j

theorem InFlightOk.of_accounts (h : s.InFlightOk) (same : t.accounts = s.accounts) : t.InFlightOk :=
  h.congr (congrArg Accounts.records same) (congrFun (congrArg Accounts.inFlight same))
    (congrFun (congrArg Accounts.queue same))

/-- A lapse takes a record from its list and, if it names a port, a place in flight from that port. -/
theorem inFlightOk_lapse (h : s.InFlightOk) (i : Port) (r : GrantRecord) (leads : s.Leads i r) :
    (s.lapse i r).InFlightOk := by
  intro j
  obtain ⟨exact_, le⟩ := h j
  have count := recordCount_remove leads (·.naming j)
  rw [lapse_queue, recordsNaming_eq, recordCount_congr (lapse_records s i r), lapse_arbiters, returnGrant_arbiter]
  rw [recordsNaming_eq] at exact_
  split
  · next named =>
    simp only [named, if_true] at count
    simp only [Arbiter.giveBack]
    omega
  · next other =>
    simp only [other] at count
    simp only [Bool.false_eq_true, if_false, Nat.add_zero] at count
    omega

theorem inFlight_vacated_le (s : State) (i j : Port) :
    ((s.vacated i).arbiters.get j).inFlight ≤ (s.arbiters.get j).inFlight := by
  refine vacated_of_lapse (Q := fun t => (t.arbiters.get j).inFlight ≤ (s.arbiters.get j).inFlight) le_rfl
    (fun i r _ => ?_) i
  rw [lapse_arbiters, returnGrant_arbiter]
  split
  · exact Nat.sub_le _ _
  · exact le_rfl

/-- A record that names `j` is placed for a place in flight of `j`, of which there is one. -/
theorem inFlightOk_grant (h : s.InFlightOk) {j : Port} (x : Candidate) (room : (s.arbiters.get j).inFlight < 8) :
    (s.grantUnicast j x).InFlightOk := by
  rcases grantUnicast_cases s j x with same | made
  · rwa [same]
  rw [made]
  have ok : (s.claimed x).InFlightOk := h.congr rfl (fun _ => rfl) fun _ => rfl
  have vacant := vacated_of_lapse ok (inFlightOk_lapse ok) x.ingress
  have below := (inFlight_vacated_le (s.claimed x) x.ingress j).trans_lt room
  intro k
  obtain ⟨exact_, le⟩ := vacant k
  have names : ((s.claimed x).newRecord x.ingress (.unicast x.dest j) x.cls).naming k = decide (j = k) := rfl
  have count : (((s.claimed x).placeRecord x.ingress (.unicast x.dest j) x.cls).updArb j fun a =>
      a.granted x).recordsNaming k = _ :=
    placeRecord_recordCount (s.claimed x) x.ingress (.unicast x.dest j) x.cls (·.naming k)
  rw [count, names, updArb_arbiters, updArb_transmit, placeRecord_arbiters, placeRecord_queue, Bank.get_upd]
  rw [recordsNaming_eq] at exact_
  by_cases hk : j = k
  · subst hk
    simp only [decide_true, if_true, Arbiter.granted]
    omega
  · simp only [hk, decide_false, Bool.false_eq_true, if_false, Nat.add_zero]
    omega

theorem inFlightOk_reserve (h : s.InFlightOk) (i : Port) (q : McastRequest) (k : SlotNo) :
    (s.grantMulticast i q k).InFlightOk := by
  have ok : (s.reserved i q k).InFlightOk := h.congr rfl (fun _ => rfl) fun _ => rfl
  intro j
  have vacant := vacated_of_lapse ok (inFlightOk_lapse ok) i j
  have names : ((s.reserved i q k).newRecord i (.multicast q.group k) q.cls).naming j = false := rfl
  rw [recordsNaming_eq, grantMulticast_eq, placeRecord_recordCount, names, placeRecord_arbiters, placeRecord_queue]
  rw [recordsNaming_eq] at vacant
  simpa only [Bool.false_eq_true, if_false, Nat.add_zero] using vacant

/-- The place in flight of a record that leaves for a cell goes on with the cell. -/
theorem inFlightOk_take (h : s.InFlightOk) {i : Port} {r : GrantRecord} (x : CellContent) (leads : s.Leads i r) :
    ((s.matched i r).handOff i r x).InFlightOk := by
  intro k
  obtain ⟨exact_, le⟩ := h k
  have count : (s.matched i r).recordCount (·.naming k) + _ = _ := recordCount_remove leads (·.naming k)
  rw [recordsNaming_eq] at exact_ ⊢
  rw [recordCount_congr (handOff_records (s.matched i r) i r x)]
  unfold handOff
  split
  · next d j target =>
    have names : r.naming k = decide (j = k) := by simp [GrantRecord.naming, target]
    rw [names] at count
    simp only [updTx_arbiters, matched_arbiters, updTx_transmit, matched_transmit, Bank.get_upd]
    by_cases hk : j = k
    · simp only [hk, decide_true, if_true] at count
      simp only [hk, if_true, List.length_append, List.length_singleton]
      omega
    · simp only [hk, decide_false, Bool.false_eq_true, if_false, Nat.add_zero] at count
      simp only [hk, if_false]
      omega
  · next g k' target =>
    have names : r.naming k = false := by simp [GrantRecord.naming, target]
    rw [fillSlot_transmit, (fillSlot_arbiter _ i g r.cls k' x k).1]
    simp only [names, Bool.false_eq_true, if_false, Nat.add_zero] at count
    rw [count]
    exact ⟨exact_, le⟩

theorem inFlightOk_deliver (h : s.InFlightOk) {j : Port} (k : SlotNo) (room : (s.arbiters.get j).inFlight < 8) :
    (s.deliver j k).InFlightOk := by
  intro i
  obtain ⟨exact_, le⟩ := h i
  have count : (s.deliver j k).recordsNaming i = s.recordsNaming i := rfl
  rw [count]
  simp only [deliver, updTx_arbiters, updArb_arbiters, updTx_transmit, updArb_transmit, Bank.get_upd]
  by_cases hi : j = i
  · subst hi
    simp only [if_true, List.length_append, List.length_singleton]
    omega
  · simp only [if_neg hi]
    exact ⟨exact_, le⟩

/-- What the completion of an entry leaves of lists, arbiters and queues. -/
theorem complete_blocks (s : State) (j : Port) (e : TxEntry) :
    (s.complete j e).grantLists = s.grantLists ∧
      (s.complete j e).arbiters = s.arbiters.upd j (fun a => { a with inFlight := a.inFlight - 1 }) ∧
      (s.complete j e).transmit = s.transmit.upd j (fun t => { t with queue := t.queue.tail, sending := false }) := by
  cases e <;> exact ⟨rfl, rfl, rfl⟩

theorem inFlightOk_complete (h : s.InFlightOk) {j : Port} {e : TxEntry} {es : List TxEntry}
    (queue : (s.transmit.get j).queue = e :: es) : (s.complete j e).InFlightOk := by
  obtain ⟨lists, arbiters, transmit⟩ := complete_blocks s j e
  intro i
  obtain ⟨exact_, le⟩ := h i
  rw [recordsNaming_eq, recordCount_congr (s := s) (funext fun k => by rw [records, lists]; rfl), ← recordsNaming_eq,
    arbiters, transmit, Bank.get_upd, Bank.get_upd]
  by_cases hi : j = i
  · subst hi
    rw [queue, List.length_cons] at exact_
    simp only [if_true, queue, List.tail_cons]
    omega
  · simp only [if_neg hi]
    exact ⟨exact_, le⟩

/-- Every effect keeps in-flight counts exact and at most 8. -/
theorem inFlightOk_effect (s t : State) (h : s.InFlightOk) (e : Effect s t) : t.InFlightOk := by
  have torn : ∀ u : State, u.InFlightOk → ∀ p f, ((u.teardown p).updLink p f).InFlightOk := fun u ok p f =>
    (inFlightOk_teardown ok p).of_accounts rfl
  have credited : ∀ (u : State) p (f : Arbiter → Nat), u.InFlightOk →
      (u.updArb p fun a => { a with credit := f a }).InFlightOk :=
    fun u p f ok => ok.congr rfl (congrFun (item_upd u.arbiters p Arbiter.inFlight fun _ => rfl)) fun _ => rfl
  cases e with
  | links same => exact h.of_accounts same
  | leave p f same => exact torn _ (h.of_accounts same) p f
  | enter p n => exact credited (s.updLink p (LinkPort.toUp s.now n)) p _ h
  | rejoin p n =>
    have left := (inFlightOk_teardown h p).of_accounts (leaveUp_accounts s p id)
    exact (credited ((s.leaveUp p id).updLink p (LinkPort.toUp _ n)) p (fun _ => n) left).of_accounts rfl
  | credit p f => exact credited s p f h
  | lapse i r leads => exact inFlightOk_lapse h i r leads
  | grant j x eligible => exact inFlightOk_grant h x ((eligible_iff s j).mp eligible).2.2
  | reserve i q k => exact inFlightOk_reserve h i q k
  | take i r x leads => exact inFlightOk_take h x leads
  | deliver j k ks eligible => exact inFlightOk_deliver h k ((eligible_iff s j).mp eligible).2.2
  | complete j e es queue => exact inFlightOk_complete h queue
  | tables => exact h.congr rfl (fun _ => rfl) fun _ => rfl
  | clear empty =>
    intro j
    have records : t.records = fun _ => [] := congrArg Accounts.records empty
    have inFlight : (t.arbiters.get j).inFlight = 0 := congrFun (congrArg Accounts.inFlight empty) j
    have queue : (t.transmit.get j).queue = [] := congrFun (congrArg Accounts.queue empty) j
    simp [recordsNaming, records, inFlight, queue]

end Sys2Proof.Machine.State

section
open Sys2Proof.Machine.State

/-- Settles O7: records, arbiters and queues change together in each effect, so that every place in flight is a record
or an entry. -/
theorem stepsKeepInFlightExact : Obligations.StepsKeepInFlightExact := by
  unfold Obligations.StepsKeepInFlightExact
  intro s t h run
  refine law_of_step inFlightOk_effect (fun u v _ _ ok kept => ?_) h run
  obtain ⟨-, p, present, rfl⟩ := kept
  exact ok.of_accounts rfl

end
end

section
/-! PROOF. Proofs/PortLaws.lean: the law of link ports and the bound of credit, each shown for one effect. -/

namespace Sys2Proof.Machine.State

variable {s t u : State}

/-! ### Scheduling counts in tallies alone -/

/-- Link states and buffer counts are the same, and the laws of link ports are not broken. -/
def LinksKept (s t : State) : Prop :=
  ∀ p, (t.links.get p).bufferCount = (s.links.get p).bufferCount ∧ t.link p = s.link p ∧
    ((s.links.get p).Ok → (t.links.get p).Ok)

theorem LinksKept.of_eq (h : t.links = s.links) : s.LinksKept t := fun p => by
  simp only [link, h]
  exact ⟨trivial, trivial, id⟩

theorem LinksKept.trans (h : s.LinksKept t) (k : t.LinksKept u) : s.LinksKept u := fun p =>
  ⟨(k p).1.trans (h p).1, (k p).2.1.trans (h p).2.1, (k p).2.2 ∘ (h p).2.2⟩

theorem LinksKept.of_tallies {i : Port} {f : Tallies → Tallies} (keeps : ∀ {x : Tallies}, x.Ok → (f x).Ok)
    (links : t.links = s.links.upd i fun l => { l with tallies := f l.tallies }) : s.LinksKept t := fun p => by
  rw [link, links, Bank.get_upd]
  split
  · exact ⟨rfl, rfl, fun ok => ok.withTallies (keeps ok.tallies)⟩
  · exact ⟨rfl, rfl, id⟩

theorem linksKept_lapse (s : State) (i : Port) (r : GrantRecord) : s.LinksKept (s.lapse i r) :=
  .of_tallies (fun ok => ok.addLapsed 1) (lapse_links s i r)

theorem linksKept_placeRecord (s : State) (i : Port) (target : GrantTarget) (c : Cls) :
    s.LinksKept (s.placeRecord i target c) :=
  (vacated_of_lapse (.of_eq rfl) (fun i r _ => linksKept_lapse s i r) i).trans (.of_eq (placeRecord_links s i target c))

theorem linksKept_grant (s : State) (j : Port) (x : Candidate) : s.LinksKept (s.grantUnicast j x) := by
  rcases grantUnicast_cases s j x with same | made
  · rw [same]
    exact .of_eq rfl
  · rw [made]
    exact linksKept_placeRecord (s.claimed x) x.ingress (.unicast x.dest j) x.cls

theorem linksKept_reserve (s : State) (i : Port) (q : McastRequest) (k : SlotNo) :
    s.LinksKept (s.grantMulticast i q k) := linksKept_placeRecord (s.reserved i q k) i (.multicast q.group k) q.cls

theorem linksKept_take (s : State) (i : Port) (r : GrantRecord) (x : CellContent) :
    s.LinksKept ((s.matched i r).handOff i r x) := by
  have counted : s.LinksKept (s.matched i r) := .of_tallies (fun ok => ok.addCellsIn) rfl
  refine counted.trans ?_
  unfold handOff
  split
  · exact .of_eq rfl
  · simp only [fillSlot]
    split
    · exact .of_tallies (fun ok => ok.addEmptyFanout) rfl
    · exact .of_eq rfl

theorem linksKept_complete (s : State) (j : Port) (e : TxEntry) : s.LinksKept (s.complete j e) := by
  cases e <;> exact .of_tallies (fun ok => ok.addCellsOut) rfl

/-! ### Link ports (R134, R93, R179) -/

theorem linksOk_leave (h : s.LinksOk) {p : Port} {f : LinkPort → LinkPort}
    (others : ∀ q, q ≠ p → u.links.get q = s.links.get q)
    (keeps : (s.links.get p).Ok → (f { u.links.get p with bufferCount := 0 }).Ok) :
    ((u.teardown p).updLink p f).LinksOk := by
  intro q
  rw [updLink_links, Bank.get_upd]
  by_cases hq : q = p
  · subst hq
    rw [if_pos rfl, teardown_links, Bank.get_tab, if_pos rfl]
    exact keeps (h q)
  · rw [if_neg (Ne.symm hq), teardown_link hq, others q hq]
    exact (h q).withTallies ((h q).tallies.addLapsed _)

theorem linksOk_rejoin (h : s.LinksOk) {p : Port} (up : s.link p = .up) {n : Nat} (range : 8 ≤ n ∧ n ≤ 64) :
    ((s.leaveUp p id).enterUp p n).LinksOk := by
  intro q
  have links : ((s.leaveUp p id).enterUp p n).links =
      ((s.teardown p).links.upd p id).upd p (LinkPort.toUp (s.leaveUp p id).now n) :=
    congrArg (fun b : Bank 32 LinkPort => b.upd p (LinkPort.toUp (s.leaveUp p id).now n)) (leaveUp_links s p id)
  rw [links, Bank.upd_upd, Bank.get_upd]
  by_cases hq : q = p
  · subst hq
    rw [if_pos rfl, teardown_links, Bank.get_tab, if_pos rfl]
    exact (h q).toUp (.inr up) _ range
  · rw [if_neg (Ne.symm hq), teardown_link hq]
    exact (h q).withTallies ((h q).tallies.addLapsed _)

/-- Every effect keeps the law of link ports. -/
theorem linksOk_effect (s t : State) (h : s.LinksOk) (e : Effect s t) : t.LinksOk := by
  cases e with
  | links _ keeps => exact fun p => keeps p (h p)
  | leave p f _ others keeps => exact linksOk_leave h others keeps
  | enter p n exchange range =>
    intro q
    rw [updArb_links, updLink_links, Bank.get_upd]
    split
    · next e => exact (h q).toUp (.inl (e ▸ exchange)) _ range
    · exact h q
  | rejoin p n up range => exact linksOk_rejoin h up range
  | credit => exact h
  | lapse i r => exact fun p => (linksKept_lapse s i r p).2.2 (h p)
  | grant j x => exact fun p => (linksKept_grant s j x p).2.2 (h p)
  | reserve i q k => exact fun p => (linksKept_reserve s i q k p).2.2 (h p)
  | take i r x => exact fun p => (linksKept_take s i r x p).2.2 (h p)
  | deliver => exact h
  | complete j e => exact fun p => (linksKept_complete s j e p).2.2 (h p)
  | tables => exact h
  | clear _ _ keeps => exact fun p => keeps p (h p)

/-! ### Credit (R46, R93) -/

/-- Credits that have not risen, or not beyond the buffer count, keep the law. -/
theorem CreditOk.of_kept (h : s.CreditOk) (links : s.LinksKept t)
    (credit : ∀ j, (t.arbiters.get j).credit ≤ (s.arbiters.get j).credit ∨
      (t.arbiters.get j).credit ≤ (s.links.get j).bufferCount) : t.CreditOk := by
  intro j
  obtain ⟨buffer, link, -⟩ := links j
  obtain ⟨le, idle⟩ := h j
  rw [buffer, link]
  exact ⟨(credit j).elim (·.trans le) id, idle⟩

theorem CreditOk.of_same (h : s.CreditOk) (links : s.LinksKept t)
    (credit : ∀ j, (t.arbiters.get j).credit = (s.arbiters.get j).credit) : t.CreditOk :=
  h.of_kept links fun j => .inl (credit j).le

theorem creditOk_lapse (h : s.CreditOk) (i : Port) (r : GrantRecord) : (s.lapse i r).CreditOk := by
  refine h.of_kept (linksKept_lapse s i r) fun j => ?_
  rw [lapse_arbiters, returnGrant_arbiter]
  split
  · exact .inr (Nat.min_le_left _ _)
  · exact .inl le_rfl

theorem creditOk_placeRecord (h : s.CreditOk) (i : Port) (target : GrantTarget) (c : Cls) :
    (s.placeRecord i target c).CreditOk :=
  (vacated_of_lapse h (fun i r _ => creditOk_lapse h i r) i).of_same (.of_eq (placeRecord_links s i target c)) fun j => by
    rw [placeRecord_arbiters]

theorem creditOk_grant (h : s.CreditOk) (j : Port) (x : Candidate) : (s.grantUnicast j x).CreditOk := by
  rcases grantUnicast_cases s j x with same | made
  · rwa [same]
  · rw [made]
    have claimed : (s.claimed x).CreditOk := h.of_same (.of_eq rfl) fun _ => rfl
    refine (creditOk_placeRecord claimed x.ingress (.unicast x.dest j) x.cls).of_kept (.of_eq rfl) fun k => .inl ?_
    rw [updArb_arbiters, Bank.get_upd]
    split
    · exact Nat.sub_le _ _
    · exact le_rfl

theorem creditOk_leave (h : s.CreditOk) {p : Port} {f : LinkPort → LinkPort} (same : u.accounts = s.accounts)
    (others : ∀ q, q ≠ p → u.links.get q = s.links.get q) (buffer : ∀ l, (f l).bufferCount = l.bufferCount) :
    ((u.teardown p).updLink p f).CreditOk := by
  intro q
  rw [updLink_arbiters, link, updLink_links, Bank.get_upd]
  by_cases hq : q = p
  · subst hq
    rw [if_pos rfl, buffer, teardown_links, Bank.get_tab, if_pos rfl, teardown_arbiters, Bank.get_tab, tornArbiter,
      if_pos rfl]
    exact ⟨Nat.zero_le _, fun _ => rfl⟩
  · obtain ⟨le, idle⟩ := h q
    have credit : (u.arbiters.get q).credit = (s.arbiters.get q).credit := congrFun (congrArg Accounts.credit same) q
    rw [if_neg (Ne.symm hq), teardown_link hq, teardown_arbiter hq, others q hq, credit]
    refine ⟨?_, idle⟩
    simp only
    split
    · exact le
    · exact Nat.min_le_left _ _

/-- A port that enters UP has the credit of its announced buffer count. -/
theorem creditOk_enter (h : s.CreditOk) (p : Port) (now : Time) (n : Nat) :
    ((s.updLink p (LinkPort.toUp now n)).updArb p fun a => { a with credit := n }).CreditOk := by
  intro q
  rw [updArb_arbiters, link, updArb_links, updLink_links, updLink_arbiters, Bank.get_upd, Bank.get_upd]
  split
  · exact ⟨le_rfl, fun down => absurd rfl down⟩
  · exact h q

/-- Every effect keeps credit within the buffer count. -/
theorem creditOk_effect (s t : State) (h : s.CreditOk) (e : Effect s t) : t.CreditOk := by
  cases e with
  | links same _ buffer stays =>
    intro j
    obtain ⟨le, idle⟩ := h j
    have credit : (t.arbiters.get j).credit = (s.arbiters.get j).credit := congrFun (congrArg Accounts.credit same) j
    rw [credit, buffer]
    exact ⟨le, fun down => idle fun up => down (stays j up)⟩
  | leave p f same others _ buffer => exact creditOk_leave h same others buffer
  | enter p n => exact creditOk_enter h p s.now n
  | rejoin p n =>
    have torn := creditOk_leave h (p := p) (f := id) rfl (fun _ _ => rfl) fun _ => rfl
    have left : (s.leaveUp p id).CreditOk := torn.of_same (.of_eq (leaveUp_links s p id)) fun j => by simp
    exact (creditOk_enter left p _ n).of_same (.of_eq rfl) fun _ => rfl
  | credit p f bound =>
    refine h.of_kept (.of_eq rfl) fun j => ?_
    rw [updArb_arbiters, Bank.get_upd]
    split
    · next e => exact .inr (e ▸ bound)
    · exact .inl le_rfl
  | lapse i r => exact creditOk_lapse h i r
  | grant j x => exact creditOk_grant h j x
  | reserve i q k =>
    have reserved : (s.reserved i q k).CreditOk := h.of_same (.of_eq rfl) fun _ => rfl
    exact creditOk_placeRecord reserved i (.multicast q.group k) q.cls
  | take i r x =>
    refine h.of_same (linksKept_take s i r x) fun j => ?_
    unfold handOff
    split
    · rfl
    · exact (fillSlot_arbiter _ i _ r.cls _ x j).2
  | deliver j k =>
    refine h.of_kept (.of_eq rfl) fun i => .inl ?_
    simp only [deliver, updTx_arbiters, updArb_arbiters, Bank.get_upd]
    split
    · exact Nat.sub_le _ _
    · exact le_rfl
  | complete j e =>
    refine h.of_same (linksKept_complete s j e) fun i => ?_
    rw [(complete_blocks s j e).2.1]
    exact congrFun (item_upd s.arbiters j (f := fun a => { a with inFlight := a.inFlight - 1 }) Arbiter.credit
      fun _ => rfl) i
  | tables => exact h
  | clear empty _ _ buffer =>
    intro j
    have credit : (t.arbiters.get j).credit = 0 := congrFun (congrArg Accounts.credit empty) j
    rw [credit, buffer]
    exact ⟨le_rfl, fun _ => rfl⟩

end Sys2Proof.Machine.State

section
open Sys2Proof Sys2Proof.Machine Sys2Proof.Machine.State

/-- Settles O5: each effect keeps the two laws. A presence level that is only kept while the part is held leaves credit
as it is, and link ports too, since the law of resets has them OFF. -/
theorem stepsKeepLinkPortAndCreditLaws : Obligations.StepsKeepLinkPortAndCreditLaws := by
  unfold Obligations.StepsKeepLinkPortAndCreditLaws
  refine ⟨fun s t reset h run => ?_, fun s t h run => ?_⟩
  · refine law_of_step linksOk_effect (fun u v held links ok kept q => ?_) h run
    obtain ⟨isHeld, p, present, rfl⟩ := kept
    have off : (u.links.get q).link = .off := links ▸ (reset.1 (held ▸ isHeld)).2.2.2 q
    rw [updLink_links, Bank.get_upd]
    split
    · exact (ok q).withPresence (by simp [off]) (by simp [off])
    · exact ok q
  · refine law_of_step creditOk_effect (fun u v _ _ ok kept => ?_) h run
    obtain ⟨-, p, present, rfl⟩ := kept
    intro q
    rw [updLink_arbiters, link, updLink_links, Bank.get_upd]
    split <;> exact ok q

end
end

section
/-! PROOF. Proofs/Slots.lean: the law of Replication Buffer slots, shown slot by slot for one effect. -/

namespace Sys2Proof.Machine.State

variable {s t u : State} {k : SlotNo}

/-! ### Parts of the law -/

theorem not_reserves_of_count (none : s.recordsReserving k = 0) {i : Port} {r : GrantRecord} (mem : r ∈ s.records i) :
    r.reserves k = false := by
  by_contra reserves
  have listed : 0 < (s.records i).countP (·.reserves k) :=
    List.countP_pos_iff.mpr ⟨r, mem, by simpa using reserves⟩
  have term : (s.records i).countP (·.reserves k) ≤ s.recordsReserving k :=
    List.le_sum_of_mem (List.mem_map.mpr ⟨i, List.mem_finRange i, rfl⟩)
  omega

/-- A record whose target names a slot reserves that slot. -/
theorem reserves_of_target {r : GrantRecord} {g : Group} (target : r.target = .multicast g k) : r.reserves k = true :=
  reserves_iff.mpr ⟨g, target⟩

/-- With a slot, its records and its holdings as they were, its law stands. -/
theorem SlotOk.of_same (h : s.SlotOk k) (slot : t.slots.get k = s.slots.get k)
    (count : t.recordsReserving k = s.recordsReserving k)
    (records : ∀ i, ∀ r ∈ t.records i, r ∈ s.records i ∨ r.reserves k = false)
    (holdings : ∀ j, t.holdings j k = s.holdings j k) : t.SlotOk k := by
  obtain ⟨exact_, named, held, filled⟩ := h
  refine ⟨by rw [count, slot, exact_], fun i r mem g target => ?_, fun j => by rw [holdings, slot, held], ?_⟩
  · rw [slot]
    rcases records i r mem with old | other
    · exact named i r old g target
    · rw [reserves_of_target target] at other
      cases other
  · rw [slot]
    exact filled

theorem SlotOk.of_accounts (h : s.SlotOk k) (same : t.accounts = s.accounts) : t.SlotOk k := by
  have records : t.records = s.records := congrArg Accounts.records same
  have delivery := congrFun (congrArg Accounts.delivery same)
  have queue := congrFun (congrArg Accounts.queue same)
  refine h.of_same (congrArg (fun a => a.slots.get k) same) ?_ (fun i r mem => .inl (records ▸ mem)) fun j => ?_
  · exact recordCount_congr records _
  · exact congrArg₂ (fun ds es => ds.count k + es.countP (TxEntry.isCopyOf k)) (delivery j) (queue j)

/-- A FREE slot that no record names and no queue holds. -/
theorem slotOk_free (slot : t.slots.get k = .free) (none : t.recordsReserving k = 0)
    (holdings : ∀ j, t.holdings j k = 0) : t.SlotOk k := by
  refine ⟨by rw [none, slot]; rfl, fun i r mem g target => ?_, fun j => by simp [holdings, slot, Slot.refs],
    by simp [slot]⟩
  have other := not_reserves_of_count none mem
  rw [reserves_of_target target] at other
  cases other

/-- A FILLED slot that no record names and that the ports of its reference set hold once. -/
theorem slotOk_filled {src : Port} {g : Group} {c : Cls} {x : CellContent} {refs : List Port}
    (slot : t.slots.get k = .filled src g c x refs) (none : t.recordsReserving k = 0)
    (holdings : ∀ j, t.holdings j k = if j ∈ refs then 1 else 0) (some : refs ≠ [])
    (ascending : refs.Pairwise (· < ·)) : t.SlotOk k := by
  refine ⟨by rw [none, slot]; rfl, fun i r mem g target => ?_, fun j => by rw [holdings, slot]; rfl, ?_⟩
  · have other := not_reserves_of_count none mem
    rw [reserves_of_target target] at other
    cases other
  · rintro src' g' c' x' refs' e
    rw [slot] at e
    cases e
    exact ⟨some, ascending⟩

/-- The record that names a slot, in a state that meets its law, is the only one, and no queue holds the slot. -/
theorem SlotOk.of_named (h : s.SlotOk k) {i : Port} {r : GrantRecord} (mem : r ∈ s.records i) {g : Group}
    (target : r.target = .multicast g k) :
    s.slots.get k = .reserved i g r.cls ∧ s.recordsReserving k = 1 ∧ ∀ j, s.holdings j k = 0 := by
  obtain ⟨exact_, named, held, -⟩ := h
  have slot := named i r mem g target
  exact ⟨slot, by rw [exact_, slot]; rfl, fun j => by rw [held, slot]; simp [Slot.refs]⟩

/-! ### Lapses and placed records -/

theorem lapse_holdings (s : State) (i j : Port) (r : GrantRecord) (k : SlotNo) :
    (s.lapse i r).holdings j k = s.holdings j k := by
  have delivery : ((s.lapse i r).arbiters.get j).delivery = (s.arbiters.get j).delivery := by
    rw [lapse_arbiters, returnGrant_arbiter]
    split <;> rfl
  rw [holdings, holdings, delivery, lapse_queue]

theorem Leads.mem {i : Port} {r : GrantRecord} (leads : s.Leads i r) : r ∈ s.records i := by
  obtain ⟨earlier, later, list, -⟩ := leads
  simp [list]

theorem recordsReserving_lapse {i : Port} {r : GrantRecord} (leads : s.Leads i r) (k : SlotNo) :
    (s.lapse i r).recordsReserving k + (if r.reserves k then 1 else 0) = s.recordsReserving k := by
  rw [recordsReserving_eq, recordCount_congr (lapse_records s i r)]
  exact recordCount_remove leads _

theorem mem_lapse {i j : Port} {r x : GrantRecord} (mem : x ∈ (s.lapse i r).records j) : x ∈ s.records j := by
  rw [lapse_records] at mem
  exact mem_of_mem_remove mem

/-- The lapse of a record that names the slot leaves it FREE; any other lapse leaves it as it is. -/
theorem slotOk_lapse (h : s.SlotOk k) (i : Port) (r : GrantRecord) (leads : s.Leads i r) : (s.lapse i r).SlotOk k := by
  have count := recordsReserving_lapse leads k
  have slot : (s.lapse i r).slots.get k = if r.reserves k then (s.slots.get k).unreserve else s.slots.get k := by
    rw [lapse_slots, returnGrant_slot]
  cases reserves : r.reserves k with
  | false =>
    simp only [reserves, Bool.false_eq_true, if_false, Nat.add_zero] at count slot
    exact h.of_same slot count (fun _ _ mem => .inl (mem_lapse mem)) fun j => lapse_holdings s i j r k
  | true =>
    simp only [reserves, if_true] at count slot
    obtain ⟨g, target⟩ := reserves_iff.mp reserves
    obtain ⟨before, one, none⟩ := h.of_named leads.mem target
    refine slotOk_free (by rw [slot, before]; rfl) ?_ fun j => by rw [lapse_holdings, none]
    omega

theorem mem_placeRecord {i j : Port} {target : GrantTarget} {c : Cls} {r : GrantRecord}
    (mem : r ∈ (s.placeRecord i target c).records j) :
    r ∈ (s.vacated i).records j ∨ j = i ∧ r = s.newRecord i target c := by
  rw [placeRecord_records, records_updGrants] at mem
  split at mem
  · next e =>
    rcases List.mem_append.mp mem with old | new
    · exact .inl old
    · exact .inr ⟨e.symm, List.mem_singleton.mp new⟩
  · exact .inl mem

theorem placeRecord_slots (s : State) (i : Port) (target : GrantTarget) (c : Cls) :
    (s.placeRecord i target c).slots = (s.vacated i).slots := by simp [placeRecord_eq]

theorem placeRecord_holdings (s : State) (i j : Port) (target : GrantTarget) (c : Cls) (k : SlotNo) :
    (s.placeRecord i target c).holdings j k = (s.vacated i).holdings j k := by
  rw [holdings, holdings, placeRecord_arbiters, placeRecord_queue]

/-- A placed record that does not name the slot. -/
theorem slotOk_placeRecord (h : s.SlotOk k) (i : Port) {target : GrantTarget} (c : Cls)
    (other : (s.newRecord i target c).reserves k = false) : (s.placeRecord i target c).SlotOk k := by
  have vacant := vacated_of_lapse (Q := fun t => t.SlotOk k) h (slotOk_lapse h) i
  refine vacant.of_same (by rw [placeRecord_slots]) ?_ (fun j r mem => ?_) fun j => placeRecord_holdings s i j target c k
  · simp only [recordsReserving_eq, placeRecord_recordCount, other, Bool.false_eq_true, if_false, Nat.add_zero]
  · rcases mem_placeRecord mem with old | ⟨-, new⟩
    · exact .inl old
    · exact .inr (by rw [new, other])

theorem slotOk_grant (h : s.SlotOk k) (j : Port) (x : Candidate) : (s.grantUnicast j x).SlotOk k := by
  rcases grantUnicast_cases s j x with same | made
  · rwa [same]
  · rw [made]
    have claimed : (s.claimed x).SlotOk k := h.of_same rfl rfl (fun _ _ mem => .inl mem) fun _ => rfl
    refine (slotOk_placeRecord claimed x.ingress (target := .unicast x.dest j) x.cls rfl).of_same rfl rfl
      (fun _ _ mem => .inl mem) fun i => ?_
    have delivery := congrFun (item_upd ((s.claimed x).placeRecord x.ingress (.unicast x.dest j) x.cls).arbiters j
      (f := fun a => a.granted x) Arbiter.delivery fun _ => rfl) i
    rw [holdings, holdings, updArb_arbiters, delivery]
    rfl

/-- The slot that the allocator takes is RESERVED, its record the only one that names it, whatever lapses first. -/
theorem slotOk_reserve_self (h : s.SlotOk k) (free : s.slots.get k = .free) (i : Port) (q : McastRequest) :
    (s.grantMulticast i q k).SlotOk k := by
  obtain ⟨exact_, -, held, -⟩ := h
  rw [free] at exact_ held
  have kept : ((s.reserved i q k).vacated i).slots.get k = .reserved i q.group q.cls ∧
      ((s.reserved i q k).vacated i).recordsReserving k = 0 ∧ ∀ j, ((s.reserved i q k).vacated i).holdings j k = 0 := by
    have none : (s.reserved i q k).recordsReserving k = 0 := exact_
    have slot : (s.reserved i q k).slots.get k = .reserved i q.group q.cls := Bank.get_set_self _ _ _
    have empty : ∀ j, (s.reserved i q k).holdings j k = 0 := fun j => (held j).trans (by simp [Slot.refs])
    refine vacated_of_lapse (Q := fun t => t.slots.get k = .reserved i q.group q.cls ∧ t.recordsReserving k = 0 ∧
      ∀ j, t.holdings j k = 0) ⟨slot, none, empty⟩ (fun i' r leads => ⟨?_, ?_, fun j => ?_⟩) i
    · rw [lapse_slots, returnGrant_slot, not_reserves_of_count none leads.mem]
      exact slot
    · have := recordsReserving_lapse leads k
      omega
    · rw [lapse_holdings, empty]
  obtain ⟨slot, none, empty⟩ := kept
  have reserves : ((s.reserved i q k).newRecord i (.multicast q.group k) q.cls).reserves k = true :=
    reserves_of_target rfl
  rw [grantMulticast_eq]
  refine ⟨?_, fun j r mem g target => ?_, fun j => ?_, ?_⟩
  · rw [recordsReserving_eq, placeRecord_recordCount, reserves, ← recordsReserving_eq, none, placeRecord_slots, slot]
    rfl
  · rw [placeRecord_slots, slot]
    rcases mem_placeRecord mem with old | ⟨rfl, rfl⟩
    · have other := not_reserves_of_count none old
      rw [reserves_of_target target] at other
      cases other
    · cases target
      rfl
  · rw [placeRecord_holdings, empty, placeRecord_slots, slot]
    simp [Slot.refs]
  · rw [placeRecord_slots, slot]
    simp

theorem slotOk_reserve_ne {k' : SlotNo} (h : s.SlotOk k) (ne : k' ≠ k) (i : Port) (q : McastRequest) :
    (s.grantMulticast i q k').SlotOk k := by
  have reserved : (s.reserved i q k').SlotOk k :=
    h.of_same (Bank.get_set_ne _ ne _) rfl (fun _ _ mem => .inl mem) fun _ => rfl
  exact slotOk_placeRecord reserved i q.cls (decide_eq_false ne)

end Sys2Proof.Machine.State
end

section
/-! PROOF. Proofs/SlotMoves.lean: what cells, deliveries, completions and teardown leave of the law of slots. -/

namespace Sys2Proof.Machine.State

variable {s t : State} {k : SlotNo}

/-! ### Matched cells (R83, R123 to R126) -/

theorem recordsReserving_matched {i : Port} {r : GrantRecord} (leads : s.Leads i r) (k : SlotNo) :
    (s.matched i r).recordsReserving k + (if r.reserves k then 1 else 0) = s.recordsReserving k :=
  recordCount_remove leads _

/-- The record that has left names another slot or a port. -/
theorem slotOk_matched (h : s.SlotOk k) {i : Port} {r : GrantRecord} (leads : s.Leads i r)
    (other : r.reserves k = false) : (s.matched i r).SlotOk k := by
  have count := recordsReserving_matched leads k
  simp only [other, Bool.false_eq_true, if_false, Nat.add_zero] at count
  exact h.of_same rfl count (fun _ _ mem => .inl (mem_of_mem_remove mem)) fun _ => rfl

theorem slotOk_queued (h : s.SlotOk k) (j i : Port) (c : Cls) (d : Dest) (x : CellContent) :
    (s.updTx j fun t => { t with queue := t.queue ++ [.unicast i c d x] }).SlotOk k := by
  refine h.of_same rfl rfl (fun _ _ mem => .inl mem) fun p => ?_
  simp only [holdings, updTx_arbiters, updTx_transmit, Bank.get_upd]
  split
  · simp [TxEntry.isCopyOf]
  · rfl

theorem fanout_ascending (s : State) (g : Group) (src : Port) : (s.fanout g src).Pairwise (· < ·) := by
  have ports : (List.finRange 32).Pairwise (· < ·) := List.pairwise_lt_finRange 32
  simp only [fanout]
  split
  · exact ((ports.filter _).filter _).filter _
  · exact (ports.filter _).filter _

theorem slotOk_fillSlot_ne {k' : SlotNo} (h : s.SlotOk k) (ne : k' ≠ k) (i : Port) (g : Group) (c : Cls)
    (x : CellContent) : (s.fillSlot i g c k' x).SlotOk k := by
  simp only [fillSlot]
  split
  · exact h.of_same (Bank.get_upd_ne _ ne _) rfl (fun _ _ mem => .inl mem) fun _ => rfl
  · refine h.of_same (Bank.get_set_ne _ ne _) rfl (fun _ _ mem => .inl mem) fun j => ?_
    simp only [holdings, Bank.get_tab]
    split
    · simp [ne]
    · rfl

/-- A fill gives the slot the fanout of its group for reference set, and each port of it the slot to hold. -/
theorem slotOk_fillSlot_self {i : Port} {g : Group} {c : Cls} (slot : s.slots.get k = .reserved i g c)
    (none : s.recordsReserving k = 0) (empty : ∀ j, s.holdings j k = 0) (x : CellContent) :
    (s.fillSlot i g c k x).SlotOk k := by
  have source : s.reservation k i g c = (i, g, c) := by simp [reservation, slot]
  have ascending := s.fanout_ascending g i
  simp only [fillSlot, source]
  cases out : s.fanout g i with
  | nil => exact slotOk_free (Bank.get_upd_self _ _ _) none empty
  | cons p ps =>
    rw [out] at ascending
    refine slotOk_filled (Bank.get_set_self _ _ _) none (fun j => ?_) (List.cons_ne_nil p ps) ascending
    have before := empty j
    simp only [holdings, Bank.get_tab] at before ⊢
    split
    · simp only [List.count_append, List.count_singleton_self]
      omega
    · exact before

theorem slotOk_take (h : s.SlotOk k) {i : Port} {r : GrantRecord} (x : CellContent) (leads : s.Leads i r) :
    ((s.matched i r).handOff i r x).SlotOk k := by
  unfold handOff
  split
  · next d j target =>
    exact slotOk_queued (slotOk_matched h leads (by simp [GrantRecord.reserves, target])) j i r.cls d x
  · next g k' target =>
    by_cases ne : k' = k
    · subst ne
      obtain ⟨slot, one, none⟩ := h.of_named leads.mem target
      have count := recordsReserving_matched leads k'
      simp only [reserves_of_target target, if_true, one] at count
      have unlisted : (s.matched i r).recordsReserving k' = 0 := by omega
      exact slotOk_fillSlot_self (by rw [matched_slots, slot]) unlisted (fun j => none j) x
    · exact slotOk_fillSlot_ne (slotOk_matched h leads (by simp [GrantRecord.reserves, target, ne])) ne i g r.cls x

/-! ### Deliveries and completions (R61, R102) -/

/-- The delivered slot leaves one queue of the port for the other. -/
theorem slotOk_deliver (h : s.SlotOk k) {j : Port} {k' : SlotNo} {ks : List SlotNo}
    (head : (s.arbiters.get j).delivery = k' :: ks) : (s.deliver j k').SlotOk k := by
  refine h.of_same rfl rfl (fun _ _ mem => .inl mem) fun p => ?_
  simp only [holdings, deliver, updTx_arbiters, updArb_arbiters, updTx_transmit, updArb_transmit, Bank.get_upd]
  by_cases hp : j = p
  · subst hp
    simp only [if_true, head, List.tail_cons, List.count_cons, List.countP_append, List.countP_singleton,
      TxEntry.isCopyOf, beq_iff_eq, decide_eq_true_eq]
    omega
  · simp only [if_neg hp]

/-- A FILLED slot that one port has left. -/
theorem SlotOk.of_released (h : s.SlotOk k) {src : Port} {g : Group} {c : Cls} {x : CellContent} {refs : List Port}
    {j : Port} (slot : s.slots.get k = .filled src g c x refs)
    (released : t.slots.get k = if refs.filter (· ≠ j) = [] then .free else .filled src g c x (refs.filter (· ≠ j)))
    (none : t.recordsReserving k = 0) (holdings : ∀ i, t.holdings i k = if i = j then 0 else s.holdings i k) :
    t.SlotOk k := by
  obtain ⟨-, -, held, filled⟩ := h
  obtain ⟨-, ascending⟩ := filled src g c x refs slot
  have here : ∀ i, t.holdings i k = if i ∈ refs.filter (· ≠ j) then 1 else 0 := fun i => by
    rw [holdings, held, slot, Slot.refs]
    by_cases hi : i = j <;> simp [hi]
  by_cases last : refs.filter (· ≠ j) = []
  · rw [if_pos last] at released
    exact slotOk_free released none fun i => by simp only [here, last, List.not_mem_nil, if_false]
  · rw [if_neg last] at released
    exact slotOk_filled released none here last (ascending.filter _)

theorem SlotOk.none_of_filled (h : s.SlotOk k) {src : Port} {g : Group} {c : Cls} {x : CellContent} {refs : List Port}
    (slot : s.slots.get k = .filled src g c x refs) : s.recordsReserving k = 0 := by
  rw [h.1, slot]
  rfl

/-- A copy that is sent leaves j's transmit queue. -/
theorem holdings_complete {j : Port} {e : TxEntry} {es : List TxEntry} (queue : (s.transmit.get j).queue = e :: es)
    (i : Port) (k : SlotNo) :
    (s.complete j e).holdings i k + (if i = j ∧ e.isCopyOf k = true then 1 else 0) = s.holdings i k := by
  obtain ⟨-, arbiters, transmit⟩ := complete_blocks s j e
  simp only [holdings, arbiters, transmit, Bank.get_upd]
  by_cases hi : j = i
  · subst hi
    simp only [if_true, queue, List.tail_cons, List.countP_cons, true_and]
    omega
  · simp only [if_neg hi, if_neg fun both : i = j ∧ _ => hi both.1.symm, Nat.add_zero]

theorem slotOk_complete (h : s.SlotOk k) {j : Port} {e : TxEntry} {es : List TxEntry}
    (queue : (s.transmit.get j).queue = e :: es) : (s.complete j e).SlotOk k := by
  obtain ⟨lists, -, -⟩ := complete_blocks s j e
  have records : (s.complete j e).records = s.records := funext fun i => by rw [State.records, lists]; rfl
  have count : (s.complete j e).recordsReserving k = s.recordsReserving k := recordCount_congr records _
  have holdings := fun i => holdings_complete queue i k
  have same (slot : (s.complete j e).slots.get k = s.slots.get k) (other : e.isCopyOf k = false) :
      (s.complete j e).SlotOk k := by
    refine h.of_same slot count (fun i r mem => .inl (records ▸ mem)) fun i => ?_
    simpa [other] using holdings i
  cases e with
  | unicast i c d x => exact same rfl rfl
  | copy k' =>
    have slots : (s.complete j (.copy k')).slots = s.slots.upd k' (·.release j) := rfl
    by_cases hk : k' = k
    · subst hk
      obtain ⟨-, -, held, -⟩ := id h
      have own := holdings j
      simp only [TxEntry.isCopyOf, decide_true, and_true, if_true] at own holdings
      have once : s.holdings j k' ≤ 1 := by rw [held]; split <;> omega
      have unheld (none : (s.slots.get k').refs = []) : False := by
        rw [held, none] at own
        simp at own
      cases slot : s.slots.get k' with
      | filled src g c x refs =>
        refine h.of_released (j := j) slot ?_ (count.trans (h.none_of_filled slot)) fun i => ?_
        · rw [slots, Bank.get_upd_self, slot, release_filled]
        · have here := holdings i
          by_cases hi : i = j
          · subst hi
            rw [if_pos rfl]
            omega
          · rwa [if_neg hi] at here ⊢
      | free => exact (unheld (by rw [slot]; rfl)).elim
      | reserved src g c => exact (unheld (by rw [slot]; rfl)).elim
    · exact same (by rw [slots, Bank.get_upd_ne _ hk]) (decide_eq_false hk)

/-! ### Teardown (R129, R130, R147) -/

theorem recordsReserving_teardown (s : State) (j : Port) (k : SlotNo) :
    s.recordsReserving k = (s.teardown j).recordsReserving k + (s.records j).countP (·.reserves k) := by
  unfold recordsReserving
  rw [← sum_ports_single j ((s.records j).countP (·.reserves k))]
  refine sum_ports_add fun i => ?_
  rw [records_teardown]
  split
  · next e => rw [e]; simp
  · rw [List.countP_filter, Nat.add_zero]
    refine List.countP_congr fun r _ => ?_
    simp only [Bool.and_eq_true, Bool.not_eq_true', iff_self_and]
    intro reserves
    obtain ⟨g, target⟩ := reserves_iff.mp reserves
    simp [GrantRecord.naming, target]

theorem holdings_teardown (s : State) (j i : Port) (k : SlotNo) :
    (s.teardown j).holdings i k = if i = j then 0 else s.holdings i k := by
  simp only [holdings, teardown_arbiters, teardown_transmit, Bank.get_tab, tornArbiter, tornTransmit]
  by_cases hi : i = j
  · simp [hi, Arbiter.idle, Transmit.empty]
  · simp only [if_neg hi]
    split <;> rfl

theorem slotOk_teardown (h : s.SlotOk k) (j : Port) : (s.teardown j).SlotOk k := by
  obtain ⟨exact_, -, held, -⟩ := id h
  have count := recordsReserving_teardown s j k
  have torn : (s.teardown j).slots.get k = s.tornSlot j k := by rw [teardown_slots, Bank.get_tab]
  have unheld (empty : (s.slots.get k).refs = []) (i : Port) : (s.teardown j).holdings i k = 0 := by
    rw [holdings_teardown, held, empty]
    simp
  cases slot : s.slots.get k with
  | free =>
    rw [slot] at exact_
    simp only [Slot.isReserved, Bool.false_eq_true, if_false] at exact_
    exact slotOk_free (torn.trans (tornSlot_free slot)) (by omega) (unheld (by rw [slot]; rfl))
  | reserved src g c =>
    rw [tornSlot_reserved h slot] at torn
    have empty := unheld (by rw [slot]; rfl)
    have own : 0 < (s.records j).countP (·.reserves k) ↔ src = j := by
      rw [List.countP_pos_iff, ← List.any_eq_true, any_reserves_iff h, slot]
      simp
    simp only [slot, Slot.isReserved, if_true] at exact_
    by_cases hj : src = j
    · rw [if_pos hj] at torn
      exact slotOk_free torn (by have := own.mpr hj; omega) empty
    · rw [if_neg hj] at torn
      refine h.of_same (torn.trans slot.symm) (by have := mt own.mp hj; omega)
        (fun i r mem => .inl (records_teardown_subset mem).1) fun i => ?_
      rw [empty, held, slot]
      simp [Slot.refs]
  | filled src g c x refs =>
    refine h.of_released slot (torn.trans (tornSlot_filled h slot)) ?_ (holdings_teardown s j · k)
    have := h.none_of_filled slot
    omega

/-! ### Effects -/

/-- Every effect keeps the law of a slot. -/
theorem slotOk_effect (h : s.SlotOk k) (e : Effect s t) : t.SlotOk k := by
  have torn (u : State) (ok : u.SlotOk k) (p : Port) (f : LinkPort → LinkPort) :
      ((u.teardown p).updLink p f).SlotOk k :=
    (slotOk_teardown ok p).of_accounts rfl
  have credited (u : State) (p : Port) (f : Arbiter → Nat) (ok : u.SlotOk k) :
      (u.updArb p fun a => { a with credit := f a }).SlotOk k := by
    refine ok.of_same rfl rfl (fun _ _ mem => .inl mem) fun j => ?_
    have delivery := congrFun (item_upd u.arbiters p (f := fun a => { a with credit := f a }) Arbiter.delivery
      fun _ => rfl) j
    rw [holdings, holdings, updArb_arbiters, delivery]
    rfl
  cases e with
  | links same => exact h.of_accounts same
  | leave p f same => exact torn _ (h.of_accounts same) p f
  | enter p n => exact credited (s.updLink p (LinkPort.toUp s.now n)) p _ (h.of_accounts rfl)
  | rejoin p n =>
    have left : (s.leaveUp p id).SlotOk k := (slotOk_teardown h p).of_accounts (leaveUp_accounts s p id)
    have entered := left.of_accounts (t := (s.leaveUp p id).updLink p (LinkPort.toUp (s.leaveUp p id).now n)) rfl
    exact (credited _ p (fun _ => n) entered).of_accounts rfl
  | credit p f => exact credited s p f h
  | lapse i r leads => exact slotOk_lapse h i r leads
  | grant j x => exact slotOk_grant h j x
  | reserve i q k' free =>
    by_cases ne : k' = k
    · subst ne
      exact slotOk_reserve_self h free i q
    · exact slotOk_reserve_ne h ne i q
  | take i r x leads => exact slotOk_take h x leads
  | deliver j k' ks _ head => exact slotOk_deliver h head
  | complete j e es queue => exact slotOk_complete h queue
  | tables => exact h.of_same rfl rfl (fun _ _ mem => .inl mem) fun _ => rfl
  | clear empty =>
    have records : t.records = fun _ => [] := congrArg Accounts.records empty
    have delivery := congrFun (congrArg Accounts.delivery empty)
    have queue := congrFun (congrArg Accounts.queue empty)
    refine slotOk_free ((congrArg (fun a => a.slots.get k) empty).trans (Bank.get_fill _ _)) ?_ fun j => ?_
    · simp [recordsReserving, records]
    · exact congrArg₂ (fun ds es => ds.count k + es.countP (TxEntry.isCopyOf k)) (delivery j) (queue j)

end Sys2Proof.Machine.State

section
open Sys2Proof.Machine.State

/-- Settles O9: the lists, the queues and the slots change together in each effect, slot by slot. -/
theorem stepsKeepSlotsAndReferencesExact : Obligations.StepsKeepSlotsAndReferencesExact := by
  unfold Obligations.StepsKeepSlotsAndReferencesExact
  intro s t h run
  refine law_of_step (fun _ _ ok e k => slotOk_effect (ok k) e) (fun u v _ _ ok kept => ?_) h run
  obtain ⟨-, p, present, rfl⟩ := kept
  exact fun k => (ok k).of_accounts rfl

end
end

section
/-! PROOF. Proofs/Decisions.lean: the decisions of an egress arbiter and of the allocator, each by its effects (R50,
R57 to R61, R117 to R119). -/

namespace Sys2Proof.Machine.State

variable {s : State} {j : Port}

/-! ### Claims (R57) -/

/-- The three claims are taken together or not at all. -/
theorem presentClaims_eq (s : State) (j : Port) (x : Candidate) :
    s.presentClaims j x =
      if 1 ≤ s.count x.ingress x.dest x.cls ∧ (s.mapEntry x.dest).map = .active j ∧ s.link x.ingress = .up ∧
          (s.records x.ingress).length < 4 then some (s.claimed x) else none := by
  have place : (s.claimed x).placeOpen x.ingress = true ↔
      s.link x.ingress = .up ∧ (s.records x.ingress).length < 4 := by
    rw [placeOpen, Bool.and_eq_true, isUp_iff, decide_eq_true_eq]
    rfl
  by_cases count : 1 ≤ s.count x.ingress x.dest x.cls
  · have first : s.claimCount x = some (s.setCount x.ingress x.dest x.cls (s.count x.ingress x.dest x.cls - 1)) :=
      if_pos count
    by_cases entry : (s.mapEntry x.dest).map = .active j
    · have second : (s.setCount x.ingress x.dest x.cls (s.count x.ingress x.dest x.cls - 1)).claimEntry j x =
          some (s.claimed x) := if_pos entry
      simp only [presentClaims, first, second, Option.bind_eq_bind, Option.bind_some, place, count, entry, true_and]
    · have second : (s.setCount x.ingress x.dest x.cls (s.count x.ingress x.dest x.cls - 1)).claimEntry j x = none :=
        if_neg entry
      simp only [presentClaims, first, second, Option.bind_eq_bind, Option.bind_some, Option.bind_none, entry, false_and,
        and_false, if_false]
  · have first : s.claimCount x = none := if_neg count
    simp only [presentClaims, first, Option.bind_eq_bind, Option.bind_none, count, false_and, if_false]

/-- A candidate's claims are taken. -/
theorem grantUnicast_candidate {x : Candidate} (candidate : s.isCandidate j x.ingress x.dest x.cls = true) :
    s.grantUnicast j x =
      ((s.claimed x).placeRecord x.ingress (.unicast x.dest j) x.cls).updArb j fun a => a.granted x := by
  obtain ⟨count, entry, up, room, -⟩ := isCandidate_iff.mp candidate
  have claims : s.presentClaims j x = some (s.claimed x) := by
    rw [presentClaims_eq, if_pos ⟨count, entry, up, room⟩]
  simp only [grantUnicast, claims]

/-! ### Decisions of an arbiter -/

theorem exec_unicastGrantDecision_of_grant (running : s.held = none) {x : Candidate}
    (decided : s.decision j = .grant x) :
    exec (.unicastGrantDecision j none) s = .next (s.grantUnicast j x) := by
  refine (show execUnicastGrantDecision j none s = _ from whenRunning_running running _).trans ?_
  simp only [decided, Bool.false_eq_true, if_false]

theorem exec_deliveryDecision_of_deliver (running : s.held = none) {k : SlotNo} (decided : s.decision j = .deliver k) :
    exec (.deliveryDecision j) s = .next (s.deliver j k) := by
  refine (show execDeliveryDecision j s = _ from whenRunning_running running _).trans ?_
  simp only [decided]

/-- A decision whose chosen candidate meets a refused claim decides afresh. -/
theorem exec_unicastGrantDecision_refused (running : s.held = none) {x : Candidate}
    (refused : s.presentClaims j x = none) :
    exec (.unicastGrantDecision j (some x)) s = .next (s.decideAfresh j) := by
  refine (show execUnicastGrantDecision j (some x) s = _ from whenRunning_running running _).trans ?_
  simp only [refused, Option.isNone_none, if_true]

/-- The unicast grant of an eligible arbiter that has its turn. -/
theorem exec_unicastGrantDecision_grant (running : s.held = none) (eligible : s.eligible j = true) {x : Candidate}
    (chosen : s.policyChoice j = some x)
    (turn : (s.arbiters.get j).delivery = [] ∨ (s.arbiters.get j).u < (s.arbiters.get j).turn) :
    exec (.unicastGrantDecision j none) s =
      .next (((s.claimed x).placeRecord x.ingress (.unicast x.dest j) x.cls).updArb j fun a => a.granted x) := by
  have decided := (decision_grant_iff eligible).mpr ⟨chosen, turn⟩
  rw [exec_unicastGrantDecision_of_grant running decided, grantUnicast_candidate (policyChoice_isCandidate chosen)]

/-! ### Decisions of the allocator -/

theorem mcastCandidate_iff {i : Port} :
    s.mcastCandidate i = true ↔ s.link i = .up ∧ s.mcastQueues.get i ≠ [] ∧ (s.records i).length < 4 := by
  simp only [mcastCandidate, placeOpen, Bool.and_eq_true, isUp_iff, decide_eq_true_eq, Bool.not_eq_true',
    List.isEmpty_eq_false_iff]
  tauto

/-- The first candidate from the pointer is granted the lowest FREE slot. -/
theorem exec_allocatorDecision_grant (running : s.held = none) {i : Port} {k : SlotNo} {q : McastRequest}
    {qs : List McastRequest} (first : s.allocIngress = some i) (lowest : s.freeSlot = some k)
    (queue : s.mcastQueues.get i = q :: qs) : exec .allocatorDecision s = .next (s.grantMulticast i q k) := by
  refine (show execAllocatorDecision s = _ from whenRunning_running running _).trans ?_
  simp only [first, lowest, queue]

/-! ### A record placed in the place of an older one (R73) -/

theorem offer_updTx (s : State) (x : FaultRecord) (i : Port) (f : Transmit → Transmit) :
    (s.offer x).updTx i f = (s.updTx i f).offer x := by
  simp only [offer, updTx_capture]
  split <;> rfl

theorem returnGrant_unicast {r : GrantRecord} {d : Dest} (target : r.target = .unicast d j) :
    s.returnGrant r = (s.updArb j fun a => a.giveBack (s.links.get j).bufferCount).updEntry d fun e =>
      { e with drain := e.drain - 1 } := by
  rw [returnGrant, target]

theorem returnGrant_reserved {r : GrantRecord} {g g' : Group} {c : Cls} {src : Port} {k : SlotNo}
    (target : r.target = .multicast g k) (slot : s.slots.get k = .reserved src g' c) :
    s.returnGrant r = s.updSlot k fun _ => .free := by
  have slots : s.slots.upd k Slot.unreserve = s.slots.upd k fun _ => .free := Bank.upd_congr (by rw [slot]; rfl)
  simp only [returnGrant, target, updSlot, slots]

/-- The lapse of the older record and the placing of the new one, block by block. -/
theorem placeRecord_lapsing {i : Port} {target : GrantTarget} {c : Cls} {old : GrantRecord}
    (up : s.link i = .up) (found : (s.records i).find? (fun r => r.tag = (s.grantLists.get i).nextTag) = some old) :
    s.placeRecord i target c =
      (((((s.returnGrant old).updGrants i fun g =>
        { records := (g.remove old.tag).records ++ [s.newRecord i target c]
          nextTag := (s.grantLists.get i).nextTag + 1 }).updTx i fun y =>
        { y with
          words := y.words ++ [lapsedWord old, .grant (s.grantLists.get i).nextTag c target.item] }).updLink i fun l =>
        { l with tallies := l.tallies.addLapsed 1 }).raise .grantLapsed).offer (lapseFault i old) := by
  have still (f : GrantList → GrantList) :
      (((((s.returnGrant old).updGrants i f).updLink i fun l =>
        { l with tallies := l.tallies.addLapsed 1 }).raise .grantLapsed).offer (lapseFault i old)).link i = .up := by
    simpa [link] using up
  rw [placeRecord_reuse up found, lapse_updGrants, sendWord_up (still _), offer_updTx, offer_updTx]
  simp only [updTx, Bank.upd_upd, List.append_assoc, List.singleton_append]
  rfl

end Sys2Proof.Machine.State

section
open Sys2Proof Sys2Proof.Machine Sys2Proof.Machine.State

/-- Settles O34: the claims of the chosen candidate are taken, and its record is placed with a tag of its own. -/
theorem unicastGrantHasItsEffects : Obligations.UnicastGrantHasItsEffects := by
  unfold Obligations.UnicastGrantHasItsEffects
  intro s j x running up credit inFlight chosen turn fresh
  obtain ⟨-, -, ingress, -, -⟩ := isCandidate_iff.mp (policyChoice_isCandidate chosen)
  have placed := placeRecord_fresh (s := s.claimed x) (c := x.cls) (target := .unicast x.dest j) ingress fresh
  rw [exec_unicastGrantDecision_grant running ((eligible_iff s j).mpr ⟨up, credit, inFlight⟩) chosen turn, placed]
  rfl

/-- Settles O35: with a claim refused the arbiter decides as it would without a chosen candidate. -/
theorem refusedClaimsLeaveTheArbiterToDecideAfresh : Obligations.RefusedClaimsLeaveTheArbiterToDecideAfresh := by
  unfold Obligations.RefusedClaimsLeaveTheArbiterToDecideAfresh
  intro s j x running refused
  have none : s.presentClaims j x = none := by
    rw [presentClaims_eq, if_neg]
    rintro ⟨count, entry, up, room⟩
    rcases refused with empty | other | down | full
    · omega
    · exact other entry
    · exact down up
    · omega
  rw [exec_unicastGrantDecision_refused running none, decideAfresh]
  cases decided : s.decision j with
  | none => rfl
  | deliver k => exact (exec_deliveryDecision_of_deliver running decided).symm
  | grant y => exact (exec_unicastGrantDecision_of_grant running decided).symm

/-- Settles O37. -/
theorem deliveryMovesTheHeadSlot : Obligations.DeliveryMovesTheHeadSlot := by
  unfold Obligations.DeliveryMovesTheHeadSlot
  intro s j k ks running up credit inFlight head turn
  have decided : s.decision j = .deliver k :=
    (decision_deliver_iff ((eligible_iff s j).mpr ⟨up, credit, inFlight⟩)).mpr ⟨by rw [head, List.head?_cons], turn⟩
  rw [exec_deliveryDecision_of_deliver running decided, deliver, updArb]
  have arbiters := Bank.upd_congr (b := s.arbiters) (i := j)
    (f := fun a => { a with credit := a.credit - 1, inFlight := a.inFlight + 1, u := 0, delivery := a.delivery.tail })
    (g := fun a => { a with credit := a.credit - 1, inFlight := a.inFlight + 1, u := 0, delivery := ks })
    (by rw [head, List.tail_cons])
  rw [arbiters]
  rfl

/-- Settles O36: the lapse and the placing touch the same blocks as the one update does; the decisions of an arbiter and
of the allocator are that operation behind their claims. -/
theorem tagReuseLapsesTheOlderRecordFirst : Obligations.TagReuseLapsesTheOlderRecordFirst := by
  unfold Obligations.TagReuseLapsesTheOlderRecordFirst
  refine ⟨fun s i target c earlier later old up list tag before => ?_,
    fun s j x running up credit inFlight chosen turn => ?_,
    fun s running m i k q qs place candidate passed free lowest queue => ?_⟩
  · have found : (s.records i).find? (fun r => r.tag = (s.grantLists.get i).nextTag) = some old := by
      rw [List.find?_eq_some_iff_append]
      exact ⟨by simpa using tag, earlier, later, list, fun r mem => by simpa [← tag] using before r mem⟩
    have lists : (s.grantLists.upd i fun g =>
        { records := (g.remove old.tag).records ++ [s.newRecord i target c]
          nextTag := (s.grantLists.get i).nextTag + 1 }) =
        s.grantLists.set i
          { records := earlier ++ later ++ [⟨old.tag, c, target, s.grantWindow.time.map (s.now + ·)⟩]
            nextTag := old.tag + 1 } := by
      have rest : ((s.grantLists.get i).remove old.tag).records = earlier ++ later :=
        (congrArg _ list).trans (eraseP_tag before rfl)
      rw [Bank.upd, rest, newRecord, tag]
    have placed := placeRecord_lapsing (target := target) (c := c) up found
    rw [updGrants, returnGrant_grantLists, lists, ← tag] at placed
    refine ⟨fun d j named => ?_, fun g k src g' c' named slot => ?_⟩
    · rw [placed, returnGrant_unicast named]
      rfl
    · rw [placed, returnGrant_reserved named slot]
      rfl
  · exact exec_unicastGrantDecision_grant running ((eligible_iff s j).mpr ⟨up, credit, inFlight⟩) chosen turn
  · have first : s.allocIngress = some i := by
      rw [place]
      exact find?_cyclic (fun m' hm => by simpa using mt mcastCandidate_iff.mp (passed m' hm))
        (mcastCandidate_iff.mpr (place ▸ candidate))
    have slot : s.freeSlot = some k :=
      find?_finRange (fun k' hk => decide_eq_false (lowest k' hk)) (decide_eq_true free)
    have queues : s.mcastQueues.upd i List.tail = s.mcastQueues.set i qs := by rw [Bank.upd, queue, List.tail_cons]
    rw [exec_allocatorDecision_grant running first slot queue, grantMulticast, queues]

end
end

section
/-! PROOF. Proofs/PortAnswers.lean: SET PORT and READ PORT (R64, R136, R148, R151, R165, R166). -/

namespace Sys2Proof.Machine.State

variable {s : State}

theorem exec_setPort (running : s.held = none) {l : MgmtLink} (holder : s.holder = some l) {p : Port} {x : PortSettings}
    {port e h pol src k th : Byte} (number : p.val = port.toNat) (settings : settingsArg e h pol src k th = some x) :
    exec (.setPort l port e h pol src k th) s =
      .next ((s.setPort p x).respond l 6 .done (.linkState ((s.setPort p x).link p))) := by
  refine (show execSetPort l port e h pol src k th s = _ from whenRunning_running running _).trans ?_
  simp only [mutating_holder holder, numArg_of_val number, settings]

theorem exec_setPort_refused (running : s.held = none) {l : MgmtLink} (holder : s.holder = some l)
    {port e h pol src k th : Byte} (refused : settingsArg e h pol src k th = none) :
    exec (.setPort l port e h pol src k th) s = .next (s.respond l 6 .badArgument .none) := by
  refine (show execSetPort l port e h pol src k th s = _ from whenRunning_running running _).trans ?_
  simp only [mutating_holder holder, refused]
  cases numArg 32 port.toNat <;> rfl

theorem endsHold_iff {p : Port} {x : PortSettings} :
    s.endsHold p x = true ↔
      s.link p = .up ∧ (s.links.get p).holdEnable = true ∧ x.holdEnable = false ∧ (s.intakes.get p).hold = true ∧
        x.enable = true := by
  simp only [endsHold, Bool.and_eq_true, Bool.not_eq_true', isUp_iff]
  tauto

/-- The settings of a port replaced, and what a hold that ends leaves (R148). -/
def withSettings (s : State) (p : Port) (x : PortSettings) : State :=
  let s1 := (s.updLink p (·.withSettings x)).updArb p (·.withSettings x)
  if s.link p = .up ∧ (s.links.get p).holdEnable = true ∧ x.holdEnable = false ∧ (s.intakes.get p).hold = true ∧
      x.enable = true then
    (s1.updIntake p fun q => { q with hold := false }).updTx p fun y => { y with words := y.words ++ [.resume] }
  else s1

theorem link_withSettings (s : State) (p : Port) (x : PortSettings) : (s.withSettings p x).link p = s.link p := by
  unfold withSettings
  split <;> simp [link, LinkPort.withSettings]

/-- The settings are replaced, then the enable field moves the port. -/
theorem setPort_eq (s : State) (p : Port) (x : PortSettings) :
    s.setPort p x = (s.withSettings p x).applyEnable p x.enable := by
  have still : (((s.updLink p (·.withSettings x)).updArb p (·.withSettings x)).updIntake p fun q =>
      { q with hold := false }).link p = s.link p := by
    simp [link, LinkPort.withSettings]
  simp only [setPort, withSettings, endsHold_iff]
  split
  · next ends => rw [sendWord_up (still.trans ends.1)]
  · rfl

theorem exec_readPort (running : s.held = none) (l : MgmtLink) {port : Byte} {p : Port} (number : p.val = port.toNat) :
    exec (.readPort l port) s =
      .next ((s.updLink p (·.clearSticky l)).respond l 7 .done (.port (s.portReport l p))) := by
  refine (show execReadPort l port s = _ from whenRunning_running running _).trans ?_
  simp only [numArg_of_val number]

end Sys2Proof.Machine.State

section
open Sys2Proof Sys2Proof.Machine Sys2Proof.Machine.State

/-- Settles O51: the enable field acts on the link state as it was, which the settings leave. -/
theorem setPortReplacesSettingsAndMovesThePort : Obligations.SetPortReplacesSettingsAndMovesThePort := by
  unfold Obligations.SetPortReplacesSettingsAndMovesThePort
  intro s l port e h pol src k th running holder
  refine ⟨exec_setPort_refused running holder, fun p x number settings => ?_⟩
  intro s1 s2 off s3
  have settled : s2 = s.withSettings p x := rfl
  have still : s2.link p = s.link p := by rw [settled, link_withSettings]
  clear_value s2
  have moved : s2.applyEnable p x.enable = s3 := by
    simp only [applyEnable, still, s3]
    cases s.link p <;> cases x.enable <;> rfl
  rw [exec_setPort running holder number settings, setPort_eq, ← settled, moved]

/-- Settles O57. -/
theorem readPortReturnsThePortAndClearsOneSticky : Obligations.ReadPortReturnsThePortAndClearsOneSticky := by
  unfold Obligations.ReadPortReturnsThePortAndClearsOneSticky
  intro s l port p running number
  rw [exec_readPort running l number]
  cases l <;> rfl

end
end

section
/-! PROOF. Proofs/Matches.lean: a cell and the grant list it arrives on, matched to a record or LATE, and the expiry of a
record (R76 to R84, R123 to R126). -/

namespace Sys2Proof.Machine.State

variable {s : State} {i : Port} {x : UpCell} {earlier later : List GrantRecord} {r : GrantRecord}

/-! ### The record that a cell matches (R81, R84) -/

/-- The state in which a cell matched to `r` is handed off: the framing run has ended, the records `earlier` before `r`
have lapsed, `r` has left the list, and the cell is counted. -/
def cellMatched (s : State) (i : Port) (earlier : List GrantRecord) (r : GrantRecord) : State :=
  ((s.framed i).lapseAll i earlier).matched i r

/-- The search on a list stops at the first record with the tag. -/
theorem split_at_tag {t : Tag} (before : ∀ e ∈ earlier, e.tag ≠ t) (here : r.tag = t) :
    ((earlier ++ r :: later).takeWhile fun r => decide (r.tag ≠ t)) = earlier ∧
      ((earlier ++ r :: later).dropWhile fun r => decide (r.tag ≠ t)) = r :: later := by
  have passed : ∀ e ∈ earlier, decide (e.tag ≠ t) = true := fun e mem => decide_eq_true (before e mem)
  rw [List.takeWhile_append_of_pos passed, List.dropWhile_append_of_pos passed]
  simp [here]

theorem offerCell_match (list : s.records i = earlier ++ r :: later) (before : ∀ e ∈ earlier, e.tag ≠ x.tag)
    (here : r.tag = x.tag) :
    s.offerCell i x = ((s.lapseAll i earlier).matched i r).handOff i r (carried x) := by
  obtain ⟨skipped, found⟩ := split_at_tag (later := later) before here
  simp only [offerCell, list, found, skipped]
  rfl

theorem offerCell_late (unmatched : ∀ r ∈ s.records i, r.tag ≠ x.tag) : s.offerCell i x = s.lateCell i x.tag := by
  have passed : (s.records i).dropWhile (fun r => decide (r.tag ≠ x.tag)) = [] := by simpa using unmatched
  simp only [offerCell, passed]

/-- A cell of a length in range reaches the list of an UP port. -/
theorem exec_cell (running : s.held = none) (up : s.link i = .up) (least : 1 ≤ x.length.val)
    (most : x.length.val ≤ 128) : exec (.cell i x) s = .next ((s.framed i).offerCell i x) := by
  refine (show execCell i x s = _ from whenRunning_running running _).trans (congrArg _ ?_)
  rw [receive_up up, if_neg (by omega)]

theorem exec_cell_match (running : s.held = none) (up : s.link i = .up) (least : 1 ≤ x.length.val)
    (most : x.length.val ≤ 128) (list : s.records i = earlier ++ r :: later) (before : ∀ e ∈ earlier, e.tag ≠ x.tag)
    (here : r.tag = x.tag) : exec (.cell i x) s = .next ((s.cellMatched i earlier r).handOff i r (carried x)) := by
  rw [exec_cell running up least most, offerCell_match (s := s.framed i) list before here, cellMatched]

/-! ### What a match changes before the hand-off -/

theorem cellMatched_grantLists (list : s.records i = earlier ++ r :: later) :
    (s.cellMatched i earlier r).grantLists = s.grantLists.upd i fun g => { g with records := later } := by
  have left : (s.cellMatched i earlier r).grantLists =
      ((s.framed i).lapseAll i earlier).grantLists.upd i fun g => g.remove r.tag := rfl
  rw [left, lapseAll_grantLists (s.framed i) i earlier _ list, Bank.upd_upd]
  simp [GrantList.remove, framed]

theorem cellMatched_transmit (up : s.link i = .up) (earlier : List GrantRecord) (r : GrantRecord) :
    (s.cellMatched i earlier r).transmit = s.transmit.upd i fun t => { t with words := t.words ++ earlier.map lapsedWord } :=
  lapseAll_transmit (s.framed i) i earlier (framed_up up)

theorem cellMatched_words (up : s.link i = .up) (earlier : List GrantRecord) (r : GrantRecord) (k : Port) :
    ((s.cellMatched i earlier r).transmit.get k).words =
      (s.transmit.get k).words ++ if k = i then earlier.map lapsedWord else [] := by
  rw [cellMatched_transmit up, Bank.get_upd]
  by_cases port : i = k
  · rw [if_pos port, if_pos port.symm]
  · rw [if_neg port, if_neg (Ne.symm port), List.append_nil]

theorem cellMatched_queue (up : s.link i = .up) (earlier : List GrantRecord) (r : GrantRecord) (k : Port) :
    ((s.cellMatched i earlier r).transmit.get k).queue = (s.transmit.get k).queue ∧
      ((s.cellMatched i earlier r).transmit.get k).sending = (s.transmit.get k).sending := by
  rw [cellMatched_transmit up, Bank.get_upd]
  split <;> exact ⟨rfl, rfl⟩

/-- Lapses on a tally in its range, or at least one lapse, are as many counts (R79, R179). -/
theorem lapseAll_links_of_bound_or_ne_nil (bound : (s.links.get i).tallies.lapsed ≤ tallyLimit ∨ earlier ≠ []) :
    (s.lapseAll i earlier).links = s.links.upd i fun l => { l with tallies := l.tallies.addLapsed earlier.length } := by
  cases earlier with
  | nil => exact lapseAll_links s i [] (bound.resolve_right (absurd rfl))
  | cons e es =>
    have capped : ((s.lapse i e).links.get i).tallies.lapsed ≤ tallyLimit := by
      rw [lapse_links, Bank.get_upd_self]
      exact raiseTo_le _ _ _
    rw [lapseAll_cons, lapseAll_links _ i es capped]
    simp only [lapse_links, Bank.upd_upd, addLapsed_addLapsed, List.length_cons, Nat.add_comm]

theorem cellMatched_links (bound : (s.links.get i).tallies.lapsed ≤ tallyLimit ∨ earlier ≠ []) (r : GrantRecord) :
    (s.cellMatched i earlier r).links = s.links.upd i fun l =>
      { l with framingRun := 0, tallies := (l.tallies.addLapsed earlier.length).addCellsIn } := by
  have framed : ((s.framed i).links.get i).tallies.lapsed ≤ tallyLimit ∨ earlier ≠ [] := by rwa [framed_get]
  have counted : (s.cellMatched i earlier r).links =
      ((s.framed i).lapseAll i earlier).links.upd i fun l => { l with tallies := l.tallies.addCellsIn } := rfl
  rw [counted, lapseAll_links_of_bound_or_ne_nil framed]
  simp only [State.framed, updLink_links, Bank.upd_upd]

theorem cellMatched_meter (s : State) (i : Port) (earlier : List GrantRecord) (r : GrantRecord) (m : Fin 4) :
    (s.cellMatched i earlier r).meters.get m = (s.meters.get m).countAt .ingress i := by
  simp [cellMatched, matched, countMeters, framed]

theorem cellMatched_arbiter (s : State) (i : Port) (earlier : List GrantRecord) (r : GrantRecord) (k : Port) :
    (s.cellMatched i earlier r).arbiters.get k =
      { s.arbiters.get k with
        credit :=
          if earlier.countP (·.naming k) = 0 then (s.arbiters.get k).credit
          else min (s.links.get k).bufferCount ((s.arbiters.get k).credit + earlier.countP (·.naming k))
        inFlight := (s.arbiters.get k).inFlight - earlier.countP (·.naming k) } := by
  have buffer : ((s.framed i).links.get k).bufferCount = (s.links.get k).bufferCount := by
    rw [framed, updLink_links, Bank.get_upd]
    split <;> rfl
  rw [cellMatched, matched_arbiters, lapseAll_arbiter, buffer]
  rfl

theorem cellMatched_entry (s : State) (i : Port) (earlier : List GrantRecord) (r : GrantRecord) (d : Dest) :
    (s.cellMatched i earlier r).portMap.get d =
      { s.portMap.get d with drain := (s.portMap.get d).drain - earlier.countP (·.toward d) } :=
  lapseAll_entry (s.framed i) i earlier d

theorem cellMatched_slot (s : State) (i : Port) (earlier : List GrantRecord) (r : GrantRecord) (k : SlotNo) :
    (s.cellMatched i earlier r).slots.get k =
      if earlier.any (·.reserves k) then (s.slots.get k).unreserve else s.slots.get k :=
  lapseAll_slot (s.framed i) i earlier k

theorem cellMatched_events (s : State) (i : Port) (earlier : List GrantRecord) (r : GrantRecord) :
    let t := (if earlier = [] then s else s.raise .grantLapsed).offerAll (earlier.map (lapseFault i))
    (∀ l, (s.cellMatched i earlier r).view l = t.view l) ∧ (s.cellMatched i earlier r).capture = t.capture ∧
      (s.cellMatched i earlier r).moreFaults = t.moreFaults := by
  intro t
  obtain ⟨views, capture, more⟩ := lapseAll_events (s.framed i) i earlier
  have same : (if earlier = [] then s.framed i else (s.framed i).raise .grantLapsed) =
      (if earlier = [] then s else s.raise .grantLapsed).framed i := by split <;> rfl
  rw [same] at views capture more
  refine ⟨fun l => ?_, ?_, ?_⟩
  · have view (u : State) : (u.framed i).view l = u.view l := by cases l <;> rfl
    have matched (u : State) : (u.matched i r).view l = u.view l := by cases l <;> rfl
    rw [cellMatched, matched, views, offerAll_view, view, offerAll_view]
    rfl
  · exact capture.trans (by rw [offerAll_capture, offerAll_capture]; rfl)
  · exact more.trans (by rw [offerAll_moreFaults, offerAll_moreFaults]; rfl)

/-- What a match may change before the hand-off. -/
theorem cellMatched_frame (s : State) (i : Port) (earlier : List GrantRecord) (r : GrantRecord) :
    let t := (if earlier = [] then s else s.raise .grantLapsed).offerAll (earlier.map (lapseFault i))
    let u := s.cellMatched i earlier r
    u = { s with
      grantLists := u.grantLists, transmit := u.transmit, links := u.links, meters := u.meters
      arbiters := u.arbiters, portMap := u.portMap, slots := u.slots, viewA := t.viewA, viewB := t.viewB
      capture := t.capture, moreFaults := t.moreFaults } := by
  intro t u
  obtain ⟨views, capture, more⟩ := s.cellMatched_events i earlier r
  have viewA : u.viewA = t.viewA := views .a
  have viewB : u.viewB = t.viewB := views .b
  rw [← viewA, ← viewB, ← capture, ← more]
  simp [u, cellMatched, matched, countMeters, framed]

theorem cellMatched_fanout (s : State) (i : Port) (earlier : List GrantRecord) (r : GrantRecord) (g : Group) :
    (s.cellMatched i earlier r).fanout g i = s.fanout g i := by
  have up : (s.cellMatched i earlier r).isUp = s.isUp := by
    funext p
    have matched (u : State) : (u.matched i r).link p = u.link p := link_updLink_of_link (by intro; rfl) p
    rw [isUp, isUp, cellMatched, matched, link_lapseAll, link_framed]
  have ready : (s.cellMatched i earlier r).tablesReady = s.tablesReady := by
    simp [cellMatched, matched, countMeters, framed]
  have group : (s.cellMatched i earlier r).groupEntry g = s.groupEntry g := by
    simp [groupEntry, cellMatched, matched, countMeters, framed]
  have map (d : Dest) : ((s.cellMatched i earlier r).mapEntry d).map = (s.mapEntry d).map := by
    simp only [mapEntry, ready]
    split
    · rw [cellMatched_entry]
    · rfl
  simp only [fanout, up, group, map]

/-! ### The hand-off of a cell (R82, R83, R123 to R126) -/

theorem handOff_unicast {d : Dest} {j : Port} (target : r.target = .unicast d j) (content : CellContent) :
    s.handOff i r content = s.updTx j fun t => { t with queue := t.queue ++ [.unicast i r.cls d content] } := by
  rw [handOff, target]

/-- A slot that is not FILLED is filled with what the record says. -/
theorem reservation_own {g : Group} {c : Cls} {k : SlotNo}
    (slot : s.slots.get k = .reserved i g c ∨ s.slots.get k = .free) : s.reservation k i g c = (i, g, c) := by
  rcases slot with slot | slot <;> simp only [reservation, slot]

theorem handOff_empty {g : Group} {k : SlotNo} (target : r.target = .multicast g k)
    (slot : s.slots.get k = .reserved i g r.cls ∨ s.slots.get k = .free) (empty : s.fanout g i = [])
    (content : CellContent) :
    s.handOff i r content =
      (s.updSlot k fun _ => .free).updLink i fun l => { l with tallies := l.tallies.addEmptyFanout } := by
  simp only [handOff, target, fillSlot, reservation_own slot, empty]

theorem handOff_fanout {g : Group} {k : SlotNo} (target : r.target = .multicast g k)
    (slot : s.slots.get k = .reserved i g r.cls ∨ s.slots.get k = .free) (ports : s.fanout g i ≠ [])
    (content : CellContent) :
    s.handOff i r content =
      { s with
        slots := s.slots.set k (.filled i g r.cls content (s.fanout g i))
        arbiters := Bank.tab fun j =>
          if j ∈ s.fanout g i then { s.arbiters.get j with delivery := (s.arbiters.get j).delivery ++ [k] }
          else s.arbiters.get j } := by
  simp only [handOff, target, fillSlot, reservation_own slot]
  cases out : s.fanout g i with
  | nil => exact absurd out ports
  | cons p ps => rfl

theorem handOff_multicast {g : Group} {k : SlotNo} (target : r.target = .multicast g k)
    (slot : s.slots.get k = .reserved i g r.cls ∨ s.slots.get k = .free) (content : CellContent) :
    s.handOff i r content =
      { s with
        slots := s.slots.set k
          (if s.fanout g i = [] then .free else .filled i g r.cls content (s.fanout g i))
        links :=
          if s.fanout g i = [] then s.links.upd i fun l => { l with tallies := l.tallies.addEmptyFanout } else s.links
        arbiters := Bank.tab fun j =>
          { s.arbiters.get j with
            delivery := (s.arbiters.get j).delivery ++ if j ∈ s.fanout g i then [k] else [] } } := by
  by_cases ports : s.fanout g i = []
  · have alone (j : Port) :
        { s.arbiters.get j with
          delivery := (s.arbiters.get j).delivery ++ if j ∈ s.fanout g i then [k] else [] } = s.arbiters.get j := by
      simp [ports]
    rw [handOff_empty target slot ports, if_pos ports, if_pos ports, Bank.tab_congr alone, Bank.tab_get]
    rfl
  · have joined (j : Port) :
        (if j ∈ s.fanout g i then { s.arbiters.get j with delivery := (s.arbiters.get j).delivery ++ [k] }
          else s.arbiters.get j) =
        { s.arbiters.get j with
          delivery := (s.arbiters.get j).delivery ++ if j ∈ s.fanout g i then [k] else [] } := by
      split
      · rfl
      · rw [List.append_nil]
    rw [handOff_fanout target slot ports, if_neg ports, if_neg ports, Bank.tab_congr joined]

/-! ### The expiry of a record (R76 to R79) -/

/-- The lapse of a record of an UP port, with its LAPSED behind the words that wait. -/
theorem lapse_up (up : s.link i = .up) (r : GrantRecord) :
    s.lapse i r =
      (((((s.returnGrant r).updGrants i fun g => g.remove r.tag).updTx i fun y =>
        { y with words := y.words ++ [lapsedWord r] }).updLink i fun l =>
        { l with tallies := l.tallies.addLapsed 1 }).raise .grantLapsed).offer (lapseFault i r) := by
  have still : (((((s.returnGrant r).updGrants i fun g => g.remove r.tag).updLink i fun l =>
      { l with tallies := l.tallies.addLapsed 1 }).raise .grantLapsed).offer (lapseFault i r)).link i = .up := by
    simpa [link] using up
  rw [lapse_eq, sendWord_up still, offer_updTx]
  rfl

/-- What a record held is returned at a later time, to lists and transmit stages that it leaves as they are. -/
theorem returnGrant_arrive (s : State) (due : Time) (r : GrantRecord) :
    (s.arrive due).returnGrant r =
      { s.returnGrant r with now := max s.now due, grantLists := s.grantLists, transmit := s.transmit } := by
  unfold returnGrant
  split <;> rfl

theorem exec_grantExpiry_none {tag : Tag} {due : Time} (running : s.held = none)
    (unmatched : ∀ r ∈ s.records i, r.tag = tag → r.expiry ≠ some due) : exec (.grantExpiry i tag due) s = .next s := by
  refine (show execGrantExpiry i tag due s = _ from whenRunning_running running _).trans (congrArg _ ?_)
  split
  · next r found =>
    exact if_neg (unmatched r (List.mem_of_find?_eq_some found) (by simpa using List.find?_some found))
  · rfl

theorem exec_grantExpiry_lapse {tag : Tag} {due : Time} (running : s.held = none)
    (list : s.records i = earlier ++ r :: later) (before : ∀ e ∈ earlier, e.tag ≠ tag) (here : r.tag = tag)
    (expiry : r.expiry = some due) : exec (.grantExpiry i tag due) s = .next ((s.arrive due).lapse i r) := by
  have found : (s.records i).find? (fun r => r.tag = tag) = some r := by
    rw [List.find?_eq_some_iff_append]
    exact ⟨by simpa using here, earlier, later, list, fun e mem => by simpa using before e mem⟩
  refine (show execGrantExpiry i tag due s = _ from whenRunning_running running _).trans (congrArg _ ?_)
  simp only [found, if_pos expiry]

end Sys2Proof.Machine.State

section
open Sys2Proof Sys2Proof.Machine Sys2Proof.Machine.State

/-- Settles O42: the search on the list passes over every record. -/
theorem lateCellsAreDiscardedAndCounted : Obligations.LateCellsAreDiscardedAndCounted := by
  unfold Obligations.LateCellsAreDiscardedAndCounted
  intro s i x running up least most unmatched
  rw [exec_cell running up least most, offerCell_late (s := s.framed i) unmatched, lateCell]

/-- Settles O43: the first record with the tag is the one that the expiry finds. -/
theorem grantExpiryLapsesTheRecord : Obligations.GrantExpiryLapsesTheRecord := by
  unfold Obligations.GrantExpiryLapsesTheRecord
  intro s i tag due running
  refine ⟨exec_grantExpiry_none running, fun earlier later r up list before here expiry => ?_⟩
  intro accounted
  have rest : s.grantLists.upd i (fun g => g.remove tag) =
      s.grantLists.upd i fun g => { g with records := earlier ++ later } := by
    refine Bank.upd_congr ?_
    rw [GrantList.remove, show (s.grantLists.get i).records = _ from list, eraseP_tag before here]
  have lapsed : (s.arrive due).lapse i r = accounted (s.returnGrant r) := by
    rw [lapse_up (s := s.arrive due) up, returnGrant_arrive, here, lapsedWord, lapseFault, here, updGrants, rest]
    rfl
  rw [exec_grantExpiry_lapse running list before here expiry, lapsed]
  refine ⟨fun d j named => ?_, fun g k src g' c' named slot => ?_⟩
  · rw [returnGrant_unicast named]
    rfl
  · rw [returnGrant_reserved named slot]

/-- Settles O39: the entry joins the queue behind what the match changes. -/
theorem cellMatchedToAUnicastRecordJoinsItsPort : Obligations.CellMatchedToAUnicastRecordJoinsItsPort := by
  unfold Obligations.CellMatchedToAUnicastRecordJoinsItsPort
  intro s i j d x earlier later r running up least most links list before here target
  obtain ⟨-, -, bound, -⟩ := (links i).tallies
  have queue := cellMatched_queue up earlier r
  refine ⟨_, exec_cell_match running up least most list before here, ?_⟩
  rw [handOff_unicast target]
  refine ⟨cellMatched_grantLists list, fun k => ?_, fun k => ?_, fun k => ?_, cellMatched_links (.inl bound) r,
    cellMatched_meter s i earlier r, cellMatched_arbiter s i earlier r, cellMatched_entry s i earlier r,
    cellMatched_slot s i earlier r, ?_⟩
  · rw [updTx_transmit, Bank.get_upd]
    by_cases port : j = k
    · rw [if_pos port, if_pos port.symm, (queue k).1]
      rfl
    · rw [if_neg port, if_neg (Ne.symm port), List.append_nil, (queue k).1]
  · rw [updTx_transmit, Bank.get_upd]
    split <;> exact cellMatched_words up earlier r k
  · rw [updTx_transmit, Bank.get_upd]
    split <;> exact (queue k).2
  · rw [s.cellMatched_frame i earlier r]
    rfl

/-- Settles O41: with the record at the head the match is one chain of updates; behind earlier records, these may have
freed the slot already, which the fill does not see. -/
theorem cellMatchedToAMulticastRecordFillsItsSlot : Obligations.CellMatchedToAMulticastRecordFillsItsSlot := by
  unfold Obligations.CellMatchedToAMulticastRecordFillsItsSlot
  refine ⟨fun s i g k x r later running up least most list here target slot => ?_,
    fun s i g k x earlier later r running up least most skips list before here target slot => ?_⟩
  · intro matched content
    have rest : s.grantLists.upd i (fun g => g.remove r.tag) = s.grantLists.upd i fun g => { g with records := later } :=
      cellMatched_grantLists (earlier := []) list
    have head : s.cellMatched i [] r = matched := by
      rw [cellMatched, lapseAll_nil, State.matched, updGrants, show (s.framed i).grantLists = s.grantLists from rfl, rest]
      rfl
    have fanout : matched.fanout g i = s.fanout g i := by
      rw [← head, cellMatched_fanout]
    have own : matched.slots.get k = .reserved i g r.cls ∨ matched.slots.get k = .free := .inl slot
    rw [exec_cell_match (earlier := []) running up least most list (by simp) here, head]
    refine ⟨fun empty => ?_, fun ports => ?_⟩
    · rw [handOff_empty target own (fanout.trans empty)]
    · rw [handOff_fanout target own (fanout ▸ ports), fanout]
      rfl
  · intro content
    have fanout := s.cellMatched_fanout i earlier r g
    have own : (s.cellMatched i earlier r).slots.get k = .reserved i g r.cls ∨
        (s.cellMatched i earlier r).slots.get k = .free := by
      rw [cellMatched_slot, slot]
      split
      · exact .inr rfl
      · exact .inl rfl
    have links := cellMatched_links (s := s) (i := i) (.inr skips) r
    have frame := s.cellMatched_frame i earlier r
    refine ⟨_, exec_cell_match running up least most list before here, ?_⟩
    rw [if_neg skips] at frame
    rw [handOff_multicast target own, fanout]
    refine ⟨cellMatched_grantLists list, cellMatched_transmit up earlier r, ?_, cellMatched_meter s i earlier r,
      fun j => ?_, cellMatched_entry s i earlier r, fun k' => ?_, ?_⟩
    · simp only [links]
      split
      · rw [Bank.upd_upd]
      · rfl
    · rw [Bank.get_tab, cellMatched_arbiter]
    · rw [Bank.get_set, cellMatched_slot]
      by_cases filled : k = k'
      · rw [if_pos filled, if_pos filled.symm]
        rfl
      · rw [if_neg filled, if_neg (Ne.symm filled)]
    · rw [frame]
      rfl

end
end

section
/-! PROOF. Proofs/SentFormats.lean: the fields of a received word, and what words, cells and responses are as numbers
(chapter 11). -/

namespace Sys2Proof.Machine

namespace Formats

/-! ### Received words (R185) -/

section Fields

variable {m n w : Nat}

/-- What lies in front of `n` bits is read without them. -/
theorem extract_in_front (front : BitVec m) (rest : BitVec n) (k w : Nat) :
    (front ++ rest).extractLsb' (k + n) w = front.extractLsb' k w := by
  rw [BitVec.extractLsb'_append_eq_of_le (Nat.le_add_left n k), Nat.add_sub_cancel]

/-- The field at the front of a body. -/
theorem extract_first (field : BitVec w) (rest : BitVec n) : (field ++ rest).extractLsb' (0 + n) w = field := by
  rw [extract_in_front, BitVec.extractLsb'_eq_self]

/-- The field at the end of a body. -/
theorem extract_last (front : BitVec m) (field : BitVec n) : (front ++ field).extractLsb' 0 n = field := by
  rw [BitVec.extractLsb'_append_eq_of_add_le (Nat.zero_add n).le, BitVec.extractLsb'_eq_self]

end Fields

theorem readWord_mark (p : Port) (body : BitVec 34) : readWord p (makeWord 0x00#6 body) = .mark p :=
  readWord_makeWord p _ body

theorem readWord_resync (p : Port) (body : BitVec 34) : readWord p (makeWord 0x04#6 body) = .resync p :=
  readWord_makeWord p _ body

theorem readWord_hello (p : Port) (n : Fin 128) (x : BitVec 27) :
    readWord p (makeWord 0x01#6 (x ++ (BitVec.ofFin n : BitVec 7))) = .hello p n :=
  (readWord_makeWord p _ _).trans (congrArg (fun b : BitVec 7 => Instr.hello p b.toFin) (extract_last x _))

theorem readWord_request (p : Port) (d : Dest) (c : Cls) (n : Fin 16) (x : BitVec 22) :
    readWord p (makeWord 0x02#6 (destBits d ++ clsBits c ++ (BitVec.ofFin n : BitVec 4) ++ x)) = .request p d c n := by
  have fields {d' : BitVec 6} {c' : BitVec 2} {n' : BitVec 4} (dest : d' = destBits d) (cls : c' = clsBits c)
      (count : n' = BitVec.ofFin n) : Instr.request p d'.toFin c'.toFin n'.toFin = .request p d c n := by
    rw [dest, cls, count]
    rfl
  exact (readWord_makeWord p _ _).trans (fields
    ((extract_in_front _ x 6 6).trans ((extract_in_front _ _ 2 6).trans (extract_first _ _)))
    ((extract_in_front _ x 4 2).trans ((extract_in_front _ _ 0 2).trans (extract_last _ _)))
    ((extract_in_front _ x 0 4).trans (extract_last _ _)))

theorem readWord_groupRequest (p : Port) (g : Group) (c : Cls) (x : BitVec 22) :
    readWord p (makeWord 0x03#6 (groupBits g ++ clsBits c ++ x)) = .groupRequest p g c := by
  have fields {g' : BitVec 10} {c' : BitVec 2} (group : g' = groupBits g) (cls : c' = clsBits c) :
      Instr.groupRequest p g'.toFin c'.toFin = .groupRequest p g c := by
    rw [group, cls]
    rfl
  exact (readWord_makeWord p _ _).trans (fields
    ((extract_in_front _ x 2 10).trans (extract_first _ _)) ((extract_in_front _ x 0 2).trans (extract_last _ _)))

theorem readWord_credit (p : Port) (n : Fin 32) (x : BitVec 29) :
    readWord p (makeWord 0x05#6 ((BitVec.ofFin n : BitVec 5) ++ x)) = .credit p n :=
  (readWord_makeWord p _ _).trans (congrArg (fun b : BitVec 5 => Instr.credit p b.toFin) (extract_first _ x))

/-- A kind above that of CREDIT is undefined upstream (R185). -/
theorem readWord_undefined (p : Port) {kind : BitVec 6} (undefined : 5 < kind.toNat) (body : BitVec 34) :
    readWord p (makeWord kind body) = .failedWord p := by
  obtain ⟨k, number⟩ := Nat.exists_eq_add_of_lt undefined
  rw [readWord_makeWord, number, show 5 + k + 1 = k + 6 by omega]
  rfl

/-- The first position of a damaged cell is a failed word, and 22 more follow (R186). -/
theorem readStream_damaged (p : Port) {bits : List Bool} {frames : List Bool} (enough : 1104 ≤ bits.length)
    (kind : ofBits 6 (bits.take 6) ≠ 0x10#6) (count : frames.length = 22) :
    readStream p 0 ((true, true) :: frames.map fun f => (f, false)) bits =
      (.failedWord p :: frames.map fun f => if f then .failedWord p else .framingFailure p, 0, bits.drop 1104) := by
  have first : readPosition p 0 true true bits = some (.failedWord p, 22, bits.drop 48) := by
    rw [readPosition, if_neg (by omega), if_neg (Nat.lt_irrefl 0), if_neg (by simpa using kind)]
    rfl
  have rest := readStream_damagedTail p frames (bits.drop 48) (by rw [List.length_drop]; omega)
  rw [count, List.drop_drop] at rest
  simp only [readStream, first, rest]

/-! ### Fields as numbers (R185) -/

@[simp] theorem portBits_toNat (p : Port) : (portBits p).toNat = p.val := rfl
@[simp] theorem destBits_toNat (d : Dest) : (destBits d).toNat = d.val := rfl
@[simp] theorem clsBits_toNat (c : Cls) : (clsBits c).toNat = c.val := rfl
@[simp] theorem groupBits_toNat (g : Group) : (groupBits g).toNat = g.val := rfl
@[simp] theorem tagBits_toNat (t : Tag) : (tagBits t).toNat = t.val := rfl

@[simp] theorem castBit_toNat (x : CastItem) : (castBit x).toNat = x.castNumber := by cases x <;> rfl

@[simp] theorem itemBits_toNat (x : CastItem) : (itemBits x).toNat = x.number := by
  cases x with
  | unicast d =>
    rw [itemBits, toNat_append_mul, destBits_toNat]
    exact Nat.zero_add _
  | multicast g => rfl

@[simp] theorem reasonBits_toNat (r : RefuseReason) : (reasonBits r).toNat = refuseReasons.idxOf r := by cases r <;> rfl

@[simp] theorem refusedKindBit_toNat (x : RefusedItem) : (refusedKindBit x).toNat = x.kindNumber := by cases x <;> rfl

@[simp] theorem refusedItemBits_toNat (x : RefusedItem) : (refusedItemBits x).toNat = x.number := by
  cases x with
  | request d =>
    rw [refusedItemBits, toNat_append_mul, destBits_toNat]
    exact Nat.zero_add _
  | group g => rfl

/-! ### Sent words (R185) -/

theorem downWord_check (w : DownWord) : wordCheck (downWord w) = wordCheckOf (downWord w) := by
  cases w <;> rw [downWord, wordCheck_makeWord, wordCheckOf_makeWord]

/-- Each field is multiplied by the weight of the bit it ends at. -/
theorem downWord_body (w : DownWord) (count : ∀ r x c n, w = .refuse r x c n → n < 16) :
    (wordBody (downWord w)).toNat = w.bodyNumber := by
  cases w with
  | mark | hold | resume | synced => rw [downWord, wordBody_makeWord]; rfl
  | hello plane p =>
    simp only [downWord, wordBody_makeWord, DownWord.bodyNumber, toNat_append_mul, portBits_toNat, BitVec.toNat_ofFin,
      BitVec.toNat_ofNat, Nat.zero_mod]
    omega
  | grant t c x | lapsed t c x =>
    simp only [downWord, wordBody_makeWord, DownWord.bodyNumber, toNat_append_mul, tagBits_toNat, castBit_toNat,
      clsBits_toNat, itemBits_toNat, BitVec.toNat_ofNat, Nat.zero_mod]
    omega
  | refuse r x c n =>
    have fits : n % 2 ^ 4 = n := Nat.mod_eq_of_lt (count r x c n rfl)
    simp only [downWord, wordBody_makeWord, DownWord.bodyNumber, toNat_append_mul, reasonBits_toNat,
      refusedKindBit_toNat, refusedItemBits_toNat, clsBits_toNat, BitVec.toNat_ofNat, Nat.zero_mod, fits]
    omega
  | withdrawn d =>
    simp only [downWord, wordBody_makeWord, DownWord.bodyNumber, toNat_append_mul, destBits_toNat, BitVec.toNat_ofNat,
      Nat.zero_mod, Nat.add_zero]

/-! ### Sent cells (R101, R186) -/

theorem downHeader_toNat {x : DownCell} (length : x.content.length ≤ 128) :
    (downHeader x).toNat = x.headerNumber := by
  have fits : x.content.length % 2 ^ 8 = x.content.length := Nat.mod_eq_of_lt (by omega)
  simp only [downHeader, DownCell.headerNumber, toNat_append_mul, portBits_toNat, clsBits_toNat, castBit_toNat,
    itemBits_toNat, BitVec.toNat_ofBool, BitVec.toNat_ofNat, Nat.zero_mod, fits]
  omega

theorem payloadField_length {x : CellContent} (length : x.length ≤ 128) : (payloadField x).length = 128 := by
  simp only [payloadField, List.length_append, List.length_take, List.length_replicate]
  omega

/-- A byte of the payload field: of the payload below its length, 0 from there on. -/
theorem payloadField_get {x : CellContent} {k : Nat} (inside : k < 128) :
    (payloadField x)[k]? = some (if k < x.length then x.payload[k]?.getD 0 else 0) := by
  have taken : (x.payload.take x.length).length = min x.length x.payload.length := List.length_take
  rw [payloadField]
  by_cases payload : k < min x.length x.payload.length
  · rw [List.getElem?_append_left (taken ▸ payload), List.getElem?_take_of_lt (by omega), if_pos (by omega),
      List.getElem?_eq_getElem (by omega), Option.getD_some]
  · have zero : (if k < x.length then x.payload[k]?.getD 0 else 0) = 0 := by
      split
      · rw [List.getElem?_eq_none (by omega), Option.getD_none]
      · rfl
    rw [List.getElem?_append_right (by omega), List.getElem?_replicate_of_lt (by omega), zero]
    rfl

/-- The bytes of a vector, most significant first, are its number's. -/
theorem extract_bytes {n : Nat} (k : Nat) (width : n = 8 * k) (w : BitVec n) :
    ((List.range k).map fun i => w.extractLsb' (n - 8 - 8 * i) 8) = bigEndian k w.toNat := by
  refine List.map_congr_left fun i mem => ?_
  have inside : i < k := List.mem_range.mp mem
  have start : n - 8 - 8 * i = 8 * (k - 1 - i) := by omega
  show BitVec.ofNat 8 (w.toNat >>> (n - 8 - 8 * i)) = _
  rw [start, Nat.shiftRight_eq_div_pow, Nat.pow_mul]

theorem downCell_eq {x : DownCell} (length : x.content.length ≤ 128) :
    downCell x = bigEndian 8 x.headerNumber ++ payloadField x.content ++
      bigEndian 4 (cellCheck (downHeader x) (payloadField x.content)).toNat := by
  rw [← downHeader_toNat length, ← extract_bytes 8 rfl, ← extract_bytes 4 rfl]
  rfl

/-! ### Responses: fields of one kind (R187) -/

theorem flag_eq (b : Bool) : flag b = bigEndian 1 b.toNat := u8_bigEndian _

theorem statusCode_eq (x : Status) : statusCode x = statuses.idxOf x := by cases x <;> rfl

theorem linkCode_eq (x : LinkState) : linkCode x = bigEndian 1 (linkStates.idxOf x) := by cases x <;> rfl

theorem holderCode_eq (h : Option MgmtLink) : holderCode h = bigEndian 1 (holders.idxOf h) := by
  rcases h with _ | _ | _ <;> rfl

theorem causeCode_eq (x : StartCause) : causeCode x = bigEndian 1 (startCauses.idxOf x) := by cases x <;> rfl

theorem windowCode_eq (x : GrantWindow) : windowCode x = bigEndian 1 (grantWindows.idxOf x) := by cases x <;> rfl

theorem timeoutCode_eq (x : ClaimTimeout) : timeoutCode x = bigEndian 1 (claimTimeouts.idxOf x) := by cases x <;> rfl

theorem policyCode_eq (x : Policy) : policyCode x = bigEndian 1 (policies.idxOf x) := by cases x <;> rfl

theorem meterStateCode_eq (x : MeterState) : meterStateCode x = bigEndian 1 (meterStates.idxOf x) := by cases x <;> rfl

theorem directionCode_eq (x : Direction) : directionCode x = bigEndian 1 (directions.idxOf x) := by cases x <;> rfl

theorem gateCode_eq (x : Gate) : gateCode x = bigEndian 1 (gates.idxOf x) := by cases x <;> rfl

/-! ### Responses: groups of fields (R187) -/

/-- A list stands behind its count. -/
theorem counted_eq {α : Type} {f : α → List Byte} {g : α → List (Nat × Nat)} (entry : ∀ x, f x = fieldBytes (g x))
    (xs : List α) : counted f xs = fieldBytes ((2, xs.length) :: xs.flatMap g) := by
  rw [counted, fieldBytes_cons, fieldBytes_flatMap, u16_bigEndian, funext entry]

/-- A list of entries of one field each stands behind its count. -/
theorem counted_single {α : Type} {f : α → List Byte} {g : α → Nat × Nat} (entry : ∀ x, f x = bigEndian (g x).1 (g x).2)
    (xs : List α) : counted f xs = fieldBytes ((2, xs.length) :: xs.map g) := by
  rw [counted, fieldBytes_cons, fieldBytes_map, u16_bigEndian, funext entry]

theorem mappingCode_eq (m : Mapping) : mappingCode m = fieldBytes m.fields := by
  cases m <;> simp only [mappingCode, Mapping.fields, u8_bigEndian, fieldBytes_cons, fieldBytes_nil, List.append_nil]

theorem grantCode_eq (r : GrantReport) : grantCode r = fieldBytes r.fields := by
  unfold grantCode GrantReport.fields
  cases r.target <;>
    simp only [u8_bigEndian, u16_bigEndian, fieldBytes_cons, fieldBytes_nil, List.append_nil, List.append_assoc]

theorem txCode_eq (r : TxReport) : txCode r = fieldBytes r.fields := by
  cases r <;> simp only [txCode, TxReport.fields, u8_bigEndian, fieldBytes_cons, fieldBytes_nil, List.append_nil,
    List.append_assoc]

theorem mcastCode_eq (q : McastRequest) : mcastCode q = fieldBytes [(2, q.group.val), (1, q.cls.val)] := by
  simp only [mcastCode, u8_bigEndian, u16_bigEndian, fieldBytes_cons, fieldBytes_nil, List.append_nil]

theorem oneField_eq (x : CastItem) : oneField x = fieldBytes [(1, x.castNumber), (2, x.number)] := by
  cases x <;> simp only [oneField, CastItem.castNumber, CastItem.number, u8_bigEndian, u16_bigEndian, fieldBytes_cons,
    fieldBytes_nil, List.append_nil]

theorem absent_four : List.replicate 4 0xFF#8 = fieldBytes [(1, 255), (2, 65535), (1, 255)] := rfl
theorem absent_five : List.replicate 5 0xFF#8 = fieldBytes [(1, 255), (1, 255), (2, 65535), (1, 255)] := rfl

theorem captureCode_eq (r : Option FaultRecord) : captureCode r = fieldBytes (captureFields r) := by
  rcases r with _ | f
  · rfl
  · cases f <;> simp only [captureCode, captureFields, absent_four, absent_five, oneField_eq, u8_bigEndian,
      fieldBytes_cons, fieldBytes_nil, List.append_nil, List.append_assoc]

/-! ### Responses: the data of each (R187) -/

theorem portCode_eq (r : PortReport) : portCode r = fieldBytes r.fields := by
  have pointers : (r.ptrs.cells.flatMap fun p => u8 p.val) = fieldBytes (r.ptrs.cells.map fun p => (1, p.val)) := by
    simp only [fieldBytes_map, u8_bigEndian]
  have delivery : counted (fun k : SlotNo => u8 k.val) r.delivery =
      fieldBytes ((2, r.delivery.length) :: r.delivery.map fun k => (1, k.val)) :=
    counted_single (fun _ => u8_bigEndian _) _
  unfold portCode PortReport.fields
  rw [pointers, delivery, counted_eq grantCode_eq, counted_eq txCode_eq, counted_eq mcastCode_eq]
  simp only [linkCode_eq, flag_eq, policyCode_eq, u8_bigEndian, u16_bigEndian, fieldBytes_append, fieldBytes_cons,
    fieldBytes_nil, List.append_nil, List.append_assoc]

theorem talliesCode_eq (t : Tallies) : talliesCode t = fieldBytes (ResponseData.tallies t).fields := by
  simp only [talliesCode, ResponseData.fields, u32_bigEndian, fieldBytes_cons, fieldBytes_nil, List.append_nil,
    List.append_assoc]

theorem identityCode_eq (r : IdentityReport) : identityCode r = fieldBytes (ResponseData.identity r).fields := by
  simp only [identityCode, ResponseData.fields, causeCode_eq, flag_eq, holderCode_eq, timeoutCode_eq, windowCode_eq,
    u8_bigEndian, u16_bigEndian, fieldBytes_cons, fieldBytes_nil, List.append_nil, List.append_assoc]

theorem stagedCode_eq (e : StagedEntry) :
    u8 e.dest.val ++ mappingCode e.map = fieldBytes ((1, e.dest.val) :: e.map.fields) := by
  rw [fieldBytes_cons, mappingCode_eq, u8_bigEndian]

theorem mapCode_eq (e : MapEntry) : mappingCode e.map ++ u16 e.drain = fieldBytes (e.map.fields ++ [(2, e.drain)]) := by
  rw [fieldBytes_append, mappingCode_eq, u16_bigEndian, fieldBytes_cons, fieldBytes_nil, List.append_nil]

theorem requestCode_eq (x : Dest × Cls × Nat) :
    u8 x.1.val ++ u8 x.2.1.val ++ u16 x.2.2 = fieldBytes [(1, x.1.val), (1, x.2.1.val), (2, x.2.2)] := by
  simp only [u8_bigEndian, u16_bigEndian, fieldBytes_cons, fieldBytes_nil, List.append_nil, List.append_assoc]

theorem dataCode_eq (d : ResponseData) : dataCode d = fieldBytes d.fields := by
  cases d with
  | identity r => exact identityCode_eq r
  | port r => exact portCode_eq r
  | tallies t => exact talliesCode_eq t
  | staging es h =>
    rw [dataCode, counted_eq stagedCode_eq, holderCode_eq, ResponseData.fields, fieldBytes_append, fieldBytes_cons _ [],
      fieldBytes_nil, List.append_nil]
  | map es => exact counted_eq mapCode_eq es
  | group g e =>
    have members : counted (fun d : Dest => u8 d.val) e.members =
        fieldBytes ((2, e.members.length) :: e.members.map fun d => (1, d.val)) :=
      counted_single (fun _ => u8_bigEndian _) _
    simp only [dataCode, ResponseData.fields, members, flag_eq, u16_bigEndian, fieldBytes_append, fieldBytes_cons,
      fieldBytes_nil, List.append_nil, List.append_assoc]
  | requests p n hold blocked es =>
    rw [dataCode, counted_eq requestCode_eq]
    simp only [ResponseData.fields, flag_eq, u8_bigEndian, u16_bigEndian, fieldBytes_append, fieldBytes_cons,
      fieldBytes_nil, List.append_nil, List.append_assoc]
  | capture r more =>
    rw [dataCode, captureCode_eq, flag_eq, ResponseData.fields, fieldBytes_append, fieldBytes_cons, fieldBytes_nil,
      List.append_nil]
  | _ =>
    simp only [dataCode, ResponseData.fields, linkCode_eq, holderCode_eq, timeoutCode_eq, meterStateCode_eq,
      directionCode_eq, gateCode_eq, u8_bigEndian, u16_bigEndian, fieldBytes_cons, fieldBytes_nil, List.append_nil,
      List.append_assoc]

/-- The fields of a response message before its check: length, code, status and data (R187). -/
def messageFields (r : Response) : List (Nat × Nat) :=
  [(2, (fieldBytes r.data.fields).length + 6), (1, r.code.toNat), (1, statuses.idxOf r.status)] ++ r.data.fields

theorem fieldBytes_messageFields (r : Response) :
    fieldBytes (messageFields r) =
      u16 ((dataCode r.data).length + 6) ++ [r.code] ++ u8 (statusCode r.status) ++ dataCode r.data := by
  have code : [r.code] = bigEndian 1 r.code.toNat := by
    rw [← u8_bigEndian, u8, BitVec.ofNat_toNat, BitVec.setWidth_eq]
  simp only [messageFields, dataCode_eq, statusCode_eq, code, u8_bigEndian, u16_bigEndian, fieldBytes_append,
    fieldBytes_cons, fieldBytes_nil, List.append_nil, List.append_assoc]

theorem responseMessage_eq (r : Response) :
    responseMessage r = fieldBytes (messageFields r) ++
      bigEndian 2 (crc poly16 (bytesBits (fieldBytes (messageFields r)))).toNat := by
  rw [← u16_bigEndian, fieldBytes_messageFields]
  rfl

end Formats

end Sys2Proof.Machine

section
open Sys2Proof Sys2Proof.Machine Sys2Proof.Machine.Formats

/-- Settles O12, part by part: words received, words sent, cells sent, responses. -/
theorem sentFormatsCarryTheirFieldsAndWordsAreTakenOnThemAlone :
    Obligations.SentFormatsCarryTheirFieldsAndWordsAreTakenOnThemAlone := by
  unfold Obligations.SentFormatsCarryTheirFieldsAndWordsAreTakenOnThemAlone
  refine ⟨fun p => ?received, fun w => ?words, fun x length => ?cells, responseMessage_eq⟩
  case received =>
    exact ⟨readWord_mark p, readWord_hello p, readWord_request p, readWord_groupRequest p, readWord_resync p,
      readWord_credit p, fun _ body undefined => readWord_undefined p undefined body, readWord_badCheck p,
      fun _ _ enough kind count => readStream_damaged p enough kind count⟩
  case words =>
    refine ⟨downWord_check w, ?_, downWord_body w⟩
    cases w <;> rw [downWord, wordKind_makeWord] <;> rfl
  case cells =>
    exact ⟨downHeader_toNat length, payloadField_length length, fun _ => payloadField_get, downCell_eq length⟩

end
end

section
/-! PROOF. Proofs/Egress.lean: HELLO and CREDIT on an UP port, and the completion of a transmission. -/

namespace Sys2Proof.Machine.State

variable {s : State}

/-! ### HELLO (R94, R95, R141) -/

theorem exec_hello_exchange {p : Port} (running : s.held = none) (exchange : s.link p = .exchange) (n : Fin 128) :
    exec (.hello p n) s = .next ((s.framed p).helloInExchange p n) := by
  refine (show execHello p n s = _ from whenRunning_running running _).trans (congrArg _ ?_)
  rw [receive_exchange exchange]

theorem exec_hello_up {p : Port} (running : s.held = none) (up : s.link p = .up) (n : Fin 128) :
    exec (.hello p n) s = .next ((s.framed p).helloInUp p n) := by
  refine (show execHello p n s = _ from whenRunning_running running _).trans (congrArg _ ?_)
  rw [receive_up up]

/-- Entry to UP sets the framing-failure run to 0 by itself. -/
theorem enterUp_framed (s : State) (p : Port) (n : Nat) : (s.framed p).enterUp p n = s.enterUp p n := by
  simp only [enterUp, framed, updLink, Bank.upd_upd]
  rfl

/-- Teardown lets no time pass: the check-error window of a rejoin starts at its HELLO. -/
theorem leaveUp_framed_now (s : State) (p : Port) (f : LinkPort → LinkPort) :
    ((s.framed p).leaveUp p f).now = s.now := by
  rw [leaveUp_now, teardown_now, framed, updLink_now]

/-! ### CREDIT (R96) -/

theorem exec_credit {p : Port} {n : Fin 32} (running : s.held = none) (up : s.link p = .up) (least : 1 ≤ n.val)
    (most : n.val ≤ 16) : exec (.credit p n) s = .next ((s.framed p).takeCredit p n.val) := by
  refine (show execCredit p n s = _ from whenRunning_running running _).trans (congrArg _ ?_)
  rw [receive_up up, if_neg (by omega)]

theorem takeCredit_within {p : Port} {n : Nat}
    (within : (s.arbiters.get p).credit + n ≤ (s.links.get p).bufferCount) :
    s.takeCredit p n = s.updArb p fun a => { a with credit := a.credit + n } :=
  if_neg (Nat.not_lt.mpr within)

theorem takeCredit_excess {p : Port} {n : Nat}
    (excess : (s.links.get p).bufferCount < (s.arbiters.get p).credit + n) :
    s.takeCredit p n =
      ((s.updArb p fun a => { a with credit := (s.links.get p).bufferCount }).raise .creditExcess).offer
        (.creditExcess p) :=
  if_pos excess

theorem framed_bufferCount (s : State) (p : Port) :
    ((s.framed p).links.get p).bufferCount = (s.links.get p).bufferCount := by rw [framed_get]

/-! ### TRANSMIT_COMPLETION (R102) -/

variable {j : Port} {e : TxEntry} {es : List TxEntry}

theorem exec_transmitCompletion (running : s.held = none) (sending : (s.transmit.get j).sending = true)
    (queue : (s.transmit.get j).queue = e :: es) : exec (.transmitCompletion j) s = .next (s.complete j e) := by
  refine (show execTransmitCompletion j s = _ from whenRunning_running running _).trans (congrArg _ ?_)
  simp only [queue, if_pos sending]

/-- What is released at a completion is of another block than everything else the completion changes. -/
theorem complete_eq (queue : (s.transmit.get j).queue = e :: es) :
    s.complete j e =
      { ((s.updTx j fun t => { t with queue := es, sending := false }).updArb j fun a =>
          { a with inFlight := a.inFlight - 1 }).updLink j fun l => { l with tallies := l.tallies.addCellsOut } with
        meters := Bank.tab fun m => (s.meters.get m).countAt .egress j
        out := s.out ++ [Output.cellEnd j] }.releaseEntry j e := by
  have rest : s.updTx j (fun t => { t with queue := t.queue.tail, sending := false }) =
      s.updTx j fun t => { t with queue := es, sending := false } := by
    rw [updTx, updTx, Bank.upd_congr]
    rw [queue, List.tail_cons]
  rw [complete, rest]
  cases e <;> rfl

end Sys2Proof.Machine.State

section
open Sys2Proof Sys2Proof.Machine Sys2Proof.Machine.State

/-- Settles O23: in both link states the port enters UP alike, in UP after it has left it. -/
theorem helloBringsUpOrRejoins : Obligations.HelloBringsUpOrRejoins := by
  unfold Obligations.HelloBringsUpOrRejoins
  refine ⟨fun p n s running exchange => ?_, fun p n s running up => ?_⟩
  · rw [exec_hello_exchange running exchange, helloInExchange]
    refine ⟨fun few => ?_, fun enough => ?_⟩
    · rw [if_pos few]
    · rw [if_neg (Nat.not_lt.mpr enough), enterUp_framed]
      rfl
  · rw [exec_hello_up running up, helloInUp]
    refine ⟨fun few => ?_, fun enough => ?_⟩
    · rw [if_pos few]
    · rw [if_neg (Nat.not_lt.mpr enough), enterUp, leaveUp_framed_now]
      rfl

/-- Settles O31. -/
theorem creditRisesToTheBufferCount : Obligations.CreditRisesToTheBufferCount := by
  unfold Obligations.CreditRisesToTheBufferCount
  intro p n s running up least most bound
  have buffer : ((s.framed p).links.get p).bufferCount = bound := framed_bufferCount s p
  rw [exec_credit running up least most]
  refine ⟨fun within => ?_, fun excess => ?_⟩
  · rw [takeCredit_within (s := s.framed p) (buffer ▸ within)]
  · rw [takeCredit_excess (s := s.framed p) (buffer ▸ excess), buffer]

/-- Settles O45, by the kind of the head entry: its drain count, or the reference of its slot. -/
theorem transmitCompletionReleasesTheHeadEntry : Obligations.TransmitCompletionReleasesTheHeadEntry := by
  unfold Obligations.TransmitCompletionReleasesTheHeadEntry
  intro s j es running sending done
  refine ⟨fun src c d x queue => ?_, fun k src g c x refs queue slot => ?_⟩
  · rw [exec_transmitCompletion running sending queue, complete_eq queue]
    rfl
  · have released : done.updSlot k (·.release j) = done.updSlot k fun _ =>
        if refs.filter (· ≠ j) = [] then .free else .filled src g c x (refs.filter (· ≠ j)) := by
      rw [updSlot, updSlot, Bank.upd_congr]
      rw [show done.slots.get k = _ from slot, release_filled]
    rw [exec_transmitCompletion running sending queue, complete_eq queue, ← released]
    rfl

end
end

section
/-! PROOF. Proofs/Groups.lean: a GROUP REQUEST from absorption to its grant, the fanout of a group, and WRITE GROUP (R110,
R111, R115, R117 to R119, R124). -/

namespace Sys2Proof.Machine.State

variable {s : State} {i : Port}

/-! ### The absorption of a GROUP REQUEST (R115) -/

theorem absorbGroup_invalid {g : Group} (invalid : (s.groupEntry g).valid = false) (c : Cls) :
    s.absorbGroup i g c = (s, some (.refuse .noGroup (.group g) c 1)) := by
  simp only [absorbGroup, invalid, Bool.not_false, if_true]

theorem absorbGroup_full {g : Group} (valid : ¬ (s.groupEntry g).valid = false)
    (full : 16 ≤ (s.mcastQueues.get i).length) (c : Cls) :
    s.absorbGroup i g c = (s, some (.refuse .mcastFull (.group g) c 1)) :=
  (if_neg (by simpa using valid)).trans (if_pos full)

theorem absorbGroup_room {g : Group} (valid : ¬ (s.groupEntry g).valid = false)
    (room : ¬ 16 ≤ (s.mcastQueues.get i).length) (c : Cls) :
    s.absorbGroup i g c = ({ s with mcastQueues := s.mcastQueues.upd i fun q => q ++ [⟨g, c⟩] }, none) :=
  (if_neg (by simpa using valid)).trans (if_neg room)

/-- The REFUSE of an absorbed GROUP REQUEST, by R115's table. -/
theorem absorbGroup_refusal (s : State) (i : Port) (g : Group) (c : Cls) :
    (s.absorbGroup i g c).2.toList =
      if (s.groupEntry g).valid = false then [.refuse .noGroup (.group g) c 1]
      else if 16 ≤ (s.mcastQueues.get i).length then [.refuse .mcastFull (.group g) c 1] else [] := by
  split
  · next invalid => rw [absorbGroup_invalid invalid]; rfl
  · next valid =>
    split
    · next full => rw [absorbGroup_full valid full]; rfl
    · next room => rw [absorbGroup_room valid room]; rfl

/-- An absorbed GROUP REQUEST that is not refused joins the tail of the port's multicast request queue; one that is
refused changes nothing but what every refusal changes. -/
theorem absorbGroup_state (s : State) (i : Port) (g : Group) (c : Cls) :
    (s.absorbGroup i g c).1 =
      { s with
        mcastQueues :=
          if (s.absorbGroup i g c).2.toList = [] then s.mcastQueues.upd i fun q => q ++ [⟨g, c⟩] else s.mcastQueues } := by
  rcases Decidable.em ((s.groupEntry g).valid = false) with invalid | valid
  · rw [absorbGroup_invalid invalid]; rfl
  · rcases Decidable.em (16 ≤ (s.mcastQueues.get i).length) with full | room
    · rw [absorbGroup_full valid full]; rfl
    · rw [absorbGroup_room valid room]; rfl

/-- One absorption from an UP port, by the list of its REFUSE, empty or of one word, and the list of its RESUME. -/
theorem absorb_whole (up : s.link i = .up) (w : RequestWord) (rest : List RequestWord) :
    let refusal : List DownWord := (s.absorbWord i w).2.toList
    let resume : List DownWord := if (s.intakes.get i).hold = true ∧ rest.length = 4 then [.resume] else []
    ∃ ws : List DownWord, ws.Perm (refusal ++ resume) ∧
      s.absorb i w rest =
        { (if refusal = [] then s else s.accountRefusal i) with
          intakes := s.intakes.upd i fun q => { q with queue := rest, hold := q.hold && decide (resume = []) }
          absorbPtr := i + 1
          matrix := (s.absorbWord i w).1.matrix
          mcastQueues := (s.absorbWord i w).1.mcastQueues
          transmit := s.transmit.upd i fun x => { x with words := x.words ++ ws }
          freeCount := (s.absorb i w rest).freeCount } := by
  intro refusal resume
  have resumed : (if (s.intakes.get i).hold && rest.length == 4 then [DownWord.resume] else []) = resume := by
    simp only [resume, Bool.and_eq_true, beq_iff_eq]
  have hold : (s.intakes.upd i fun q => { q with queue := rest, hold := q.hold && !(rest.length == 4) }) =
      s.intakes.upd i fun q => { q with queue := rest, hold := q.hold && decide (resume = []) } := by
    refine Bank.upd_congr ?_
    rw [← resumed]
    cases (s.intakes.get i).hold <;> cases rest.length == 4 <;> simp
  obtain ⟨ws, perm, whole⟩ := absorb_frame up w rest
  refine ⟨ws, resumed ▸ perm, whole.trans ?_⟩
  simp only [taken, hold, refusal, Option.toList_eq_nil_iff]

/-! ### The decision of the allocator (R117, R118) -/

theorem allocIngress_eq_none (nobody : ∀ i, s.mcastCandidate i = false) : s.allocIngress = none := by
  simp [allocIngress, nobody]

theorem freeSlot_eq_none (taken : ∀ k, s.slots.get k ≠ .free) : s.freeSlot = none := by
  simp [freeSlot, taken]

/-- With no candidate or no FREE slot the allocator does nothing. -/
theorem exec_allocatorDecision_none (running : s.held = none) (nothing : s.allocIngress = none ∨ s.freeSlot = none) :
    exec .allocatorDecision s = .next s := by
  refine (show execAllocatorDecision s = _ from whenRunning_running running _).trans (congrArg _ ?_)
  rcases nothing with noIngress | noSlot
  · simp only [noIngress]
  · rw [noSlot]
    cases s.allocIngress <;> rfl

/-! ### Fanout resolution (R124) -/

/-- The members that resolution looks at: those of a valid group. -/
theorem mem_validMembers {e : GroupEntry} {d : Dest} :
    d ∈ (if e.valid then e.members else []) ↔ e.valid = true ∧ d ∈ e.members := by
  cases e.valid <;> simp

/-- Pruning takes the source alone, and only when prune source is yes. -/
theorem mem_pruned {prune : Bool} {src p : Port} {ps : List Port} :
    p ∈ (if prune then ps.filter (· ≠ src) else ps) ↔ p ∈ ps ∧ (prune = true → p ≠ src) := by
  cases prune <;> simp

theorem mem_fanout {g : Group} {src p : Port} :
    p ∈ s.fanout g src ↔
      s.link p = .up ∧ (s.groupEntry g).valid = true ∧
      (∃ d ∈ (s.groupEntry g).members, (s.mapEntry d).map = .active p) ∧
      ((s.groupEntry g).prune = true → p ≠ src) := by
  simp only [fanout, List.mem_filter, mem_pruned, List.any_eq_true, mem_validMembers, decide_eq_true_eq, isUp_iff,
    List.mem_finRange, true_and]
  constructor
  · rintro ⟨⟨⟨d, ⟨valid, member⟩, active⟩, kept⟩, up⟩
    exact ⟨up, valid, ⟨d, member, active⟩, kept⟩
  · rintro ⟨up, valid, ⟨d, member, active⟩, kept⟩
    exact ⟨⟨⟨d, ⟨valid, member⟩, active⟩, kept⟩, up⟩

/-! ### WRITE GROUP (R110, R111) -/

variable {l : MgmtLink} {g : BitVec 16} {v pr : Byte} {ms : List Byte}

/-- WRITE GROUP from the holder, once the tables are ready, with every field in range. -/
theorem exec_writeGroup (running : s.held = none) (holder : s.holder = some l) (ready : s.tablesReady = true)
    {k : Group} {v' pr' : Bool} {ds : List Dest} (number : k.val = g.toNat) (valid : flagArg v = some v')
    (prune : flagArg pr = some pr') (members : membersArg ms = some ds) :
    exec (.writeGroup l g v pr ms) s =
      .next ({ s with groups := s.groups.set k ⟨v', ds, pr'⟩ }.respond l 14 .done (.number ds.length)) := by
  refine (show execWriteGroup l g v pr ms s = _ from whenRunning_running running _).trans ?_
  simp only [mutating_holder holder, ready, Bool.not_true, Bool.false_eq_true, if_false, numArg_of_val number, valid,
    prune, members]

/-- A field out of range refuses WRITE GROUP, whatever the group and the other fields. -/
theorem exec_writeGroup_refused (running : s.held = none) (holder : s.holder = some l) (ready : s.tablesReady = true)
    (refused : flagArg v = none ∨ flagArg pr = none ∨ membersArg ms = none) :
    exec (.writeGroup l g v pr ms) s = .next (s.respond l 14 .badArgument .none) := by
  refine (show execWriteGroup l g v pr ms s = _ from whenRunning_running running _).trans (congrArg _ ?_)
  simp only [mutating_holder holder, ready, Bool.not_true, Bool.false_eq_true, if_false]
  split
  · next valid prune members => simp [valid, prune, members] at refused
  · rfl

end Sys2Proof.Machine.State

section
open Sys2Proof Sys2Proof.Machine Sys2Proof.Machine.State

/-- Settles O30: the whole absorption, with R115's table for the word. -/
theorem absorbedGroupRequestsJoinOrAreRefused : Obligations.AbsorbedGroupRequestsJoinOrAreRefused := by
  unfold Obligations.AbsorbedGroupRequestsJoinOrAreRefused
  intro s i g c rest running next queue up refusal resume
  obtain ⟨ws, perm, whole⟩ := absorb_whole up (.group g c) rest
  have refused : (s.absorbWord i (.group g c)).2.toList = refusal := absorbGroup_refusal s i g c
  have joined : (s.absorbWord i (.group g c)).1 =
      { s with mcastQueues := if refusal = [] then s.mcastQueues.upd i fun q => q ++ [⟨g, c⟩] else s.mcastQueues } :=
    refused ▸ absorbGroup_state s i g c
  rw [refused] at perm
  simp only [refused, joined] at whole
  refine ⟨_, ws, exec_absorption running next queue, perm, whole.trans ?_⟩
  split <;> rfl

/-- Settles O38: a decision that grants places its record as O36 says, here with a tag of its own. -/
theorem allocatorGrantsTheNextCandidateTheLowestFreeSlot :
    Obligations.AllocatorGrantsTheNextCandidateTheLowestFreeSlot := by
  unfold Obligations.AllocatorGrantsTheNextCandidateTheLowestFreeSlot
  intro s running candidate
  refine ⟨fun nothing => exec_allocatorDecision_none running (nothing.imp (fun nobody => ?_) freeSlot_eq_none), ?_⟩
  · exact allocIngress_eq_none fun i => by simpa using mt mcastCandidate_iff.mp (nobody i)
  · intro m i k q qs place here passed free lowest queue fresh
    obtain ⟨-, -, grants⟩ := tagReuseLapsesTheOlderRecordFirst
    rw [grants s running m i k q qs place here passed free lowest queue,
      placeRecord_fresh (by exact here.1) (by exact fresh)]
    rfl

/-- Settles O40. -/
theorem fanoutIsTheUpPortsOfTheActiveMembers : Obligations.FanoutIsTheUpPortsOfTheActiveMembers := by
  unfold Obligations.FanoutIsTheUpPortsOfTheActiveMembers
  exact fun s g src p => mem_fanout

/-- Settles O56: every field is in range, or one is not. -/
theorem writeGroupReplacesTheEntryWhole : Obligations.WriteGroupReplacesTheEntryWhole := by
  unfold Obligations.WriteGroupReplacesTheEntryWhole
  intro s l g v pr ms running holder ready
  exact ⟨fun k v' pr' ds => exec_writeGroup running holder ready, exec_writeGroup_refused running holder ready⟩

end
end

section
/-! PROOF. Proofs/LinkStates.lean: how a link port moves at a presence change, at MARKs and missing frames, and at the
expiries of its timers (chapter 7). -/

namespace Sys2Proof.Machine.State

variable {s : State} {p : Port}

/-! ### Presence (R135) -/

theorem exec_presenceChange {present : Bool} (running : s.held = none) (changed : (s.links.get p).presence ≠ present) :
    exec (.presenceChange p present) s =
      .next (((s.updLink p fun l => { l with presence := present }).raise .presenceChange).presenceMove p present) := by
  show execPresenceChange p present s = _
  simp only [execPresenceChange, if_neg changed, running, Option.isSome_none, Bool.false_eq_true, if_false]

/-! ### Alignment (R137 to R139) -/

theorem exec_mark_aligning (running : s.held = none) (aligning : s.link p = .aligning) :
    exec (.mark p) s = .next (s.goodMark p) :=
  show execMark p s = _ from (whenRunning_running running _).trans (congrArg _ (if_pos aligning))

theorem goodMark_few (few : (s.links.get p).goodMarks + 1 < 16) :
    s.goodMark p = s.updLink p fun l => { l with goodMarks := l.goodMarks + 1 } :=
  (if_neg (Nat.not_le.mpr few)).trans (updLink_congr rfl)

theorem goodMark_enough (enough : 16 ≤ (s.links.get p).goodMarks + 1) : s.goodMark p = s.enterExchange p :=
  if_pos enough

theorem exec_framingFailure (running : s.held = none) (link : s.link p = .exchange ∨ s.link p = .up) :
    exec (.framingFailure p) s = .next (s.framingFailed p) := by
  refine (show execFramingFailure p s = _ from whenRunning_running running _).trans (congrArg _ ?_)
  rcases link with h | h <;> simp only [h]

theorem framingFailed_few (few : (s.links.get p).framingRun + 1 < 4) :
    s.framingFailed p = s.updLink p fun l => { l with framingRun := l.framingRun + 1 } :=
  (if_neg (Nat.not_le.mpr few)).trans (updLink_congr rfl)

theorem framingFailed_enough (enough : 4 ≤ (s.links.get p).framingRun + 1) :
    s.framingFailed p =
      (if s.isUp p then s.leaveUp p LinkPort.loseAlignment else s.updLink p LinkPort.loseAlignment).raise .alignLost :=
  if_pos enough

theorem isUp_exchange (exchange : s.link p = .exchange) : s.isUp p = false := by simp [isUp, exchange]

/-! ### Timers (R140, R144) -/

variable {due : Time}

theorem exec_exchangeTimerExpiry (running : s.held = none) (exchange : s.link p = .exchange)
    (timer : (s.links.get p).exchangeTimer = some due) :
    exec (.exchangeTimerExpiry p due) s = .next ((s.arrive due).exchangeExpired p) :=
  show execExchangeTimerExpiry p due s = _ from
    (whenRunning_running running _).trans (congrArg _ (if_pos ⟨exchange, timer⟩))

theorem exec_exchangeTimerExpiry_none (running : s.held = none)
    (stale : s.link p ≠ .exchange ∨ (s.links.get p).exchangeTimer ≠ some due) :
    exec (.exchangeTimerExpiry p due) s = .next s :=
  show execExchangeTimerExpiry p due s = _ from
    (whenRunning_running running _).trans (congrArg _ (if_neg (not_and_or.mpr stale)))

/-- Below the eighth expiry HELLO is sent again and the timer restarts. -/
theorem exchangeExpired_retry (few : (s.links.get p).retry + 1 < 8) :
    s.exchangeExpired p =
      (s.updLink p fun l => { l with retry := l.retry + 1, exchangeTimer := some (s.now + linkPeriod) }).sendHello p := by
  rw [exchangeExpired, if_pos few]
  simp only [updLink, Bank.upd_upd]

/-- At the eighth expiry the port, which is not UP, faults and keeps its retry count. -/
theorem exchangeExpired_fault (exchange : s.link p = .exchange) (enough : 8 ≤ (s.links.get p).retry + 1) :
    s.exchangeExpired p =
      ((s.updLink p fun l => { l with retry := l.retry + 1 }.toFaulted).raise .portFaulted).offer (.portFault p) := by
  have still : (s.updLink p fun l => { l with retry := l.retry + 1 }).link p = .exchange :=
    (link_updLink_of_link (by intro; rfl) p).trans exchange
  rw [exchangeExpired, if_neg (Nat.not_lt.mpr enough), enterFaulted, isUp_exchange still]
  simp only [Bool.false_eq_true, if_false, updLink, Bank.upd_upd]

theorem exec_checkErrorWindowExpiry (running : s.held = none) (window : (s.links.get p).window = some due) :
    exec (.checkErrorWindowExpiry p due) s =
      .next ((s.arrive due).updLink p fun l =>
        { l with window := some ((s.arrive due).now + linkPeriod), windowCount := 0 }) :=
  show execCheckErrorWindowExpiry p due s = _ from (whenRunning_running running _).trans (congrArg _ (if_pos window))

theorem exec_checkErrorWindowExpiry_none (running : s.held = none) (stale : (s.links.get p).window ≠ some due) :
    exec (.checkErrorWindowExpiry p due) s = .next s :=
  show execCheckErrorWindowExpiry p due s = _ from (whenRunning_running running _).trans (congrArg _ (if_neg stale))

end Sys2Proof.Machine.State

section
open Sys2Proof Sys2Proof.Machine Sys2Proof.Machine.State

/-- Settles O19: the move is the table's, read at the link state before the change, which the item and the event leave. -/
theorem presenceChangesFollowTheirTable : Obligations.PresenceChangesFollowTheirTable := by
  unfold Obligations.PresenceChangesFollowTheirTable
  intro p present s running changed s1 dark
  have still : s1.link p = s.link p := link_updLink_of_link (by intro; rfl) p
  refine (exec_presenceChange running changed).trans (congrArg _ ?_)
  change s1.presenceMove p present = _
  simp only [presenceMove, still]
  cases s.link p <;> cases present <;> rfl

/-- Settles O21: below its limit each run rises; at the limit the port enters EXCHANGE, or loses alignment. -/
theorem alignmentIsGainedAndLost : Obligations.AlignmentIsGainedAndLost := by
  unfold Obligations.AlignmentIsGainedAndLost
  refine ⟨fun p s running aligning => ?_, fun p s running link => ?_⟩
  · rw [exec_mark_aligning running aligning]
    refine ⟨fun few => ?_, fun enough => ?_⟩
    · rw [goodMark_few few]
    · rw [goodMark_enough enough]
      rfl
  · rw [exec_framingFailure running link]
    refine ⟨fun few => ?_, fun enough exchange => ?_, fun enough up => ?_⟩
    · rw [framingFailed_few few]
    · rw [framingFailed_enough enough, isUp_exchange exchange]
      rfl
    · rw [framingFailed_enough enough, (isUp_iff s p).mpr up]
      rfl

/-- Settles O24: an expiry of the running timer acts at the time that has then arrived; any other has no effect. -/
theorem linkTimersExpireAsTheirRulesSay : Obligations.LinkTimersExpireAsTheirRulesSay := by
  unfold Obligations.LinkTimersExpireAsTheirRulesSay
  refine ⟨fun p due s running => ⟨fun exchange timer few => ?_, fun exchange timer enough => ?_, ?_⟩,
    fun p due s running => ⟨fun window => ?_, ?_⟩⟩
  · rw [exec_exchangeTimerExpiry running exchange timer, exchangeExpired_retry (s := s.arrive due) few]
    rfl
  · rw [exec_exchangeTimerExpiry running exchange timer, exchangeExpired_fault (s := s.arrive due) exchange enough]
    rfl
  · exact exec_exchangeTimerExpiry_none running
  · rw [exec_checkErrorWindowExpiry running window]
    rfl
  · exact exec_checkErrorWindowExpiry_none running

end
end

section
/-! PROOF. Proofs/Clearing.lean: what the reset line and FABRIC RESTART clear, and what a held part does not do (R149,
R167, R169, R170). -/

namespace Sys2Proof.Machine.State

variable {s : State}

/-! ### A part held in reset -/

theorem alert_held (held : s.held ≠ none) (l : MgmtLink) : s.alert l = false := by
  obtain ⟨cause, asserted⟩ := Option.ne_none_iff_exists'.mp held
  simp [alert, asserted]

theorem fillWord_held (held : s.held ≠ none) (p : Port) : s.fillWord p = none :=
  if_pos (Option.isSome_iff_ne_none.mpr held)

/-- Every command of a held part is shut out but the three that act while it is held. -/
theorem exec_held {c : Instr} (held : s.held ≠ none) (shut : actsWhileHeld c = false) : exec c s = .next s := by
  cases c with
  | powerOn => cases shut
  | resetLineRelease => cases shut
  | presenceChange => cases shut
  | resetLineAssert =>
    exact show execResetLineAssert s = _ from congrArg _ (if_pos (Option.isSome_iff_ne_none.mpr held))
  | _ =>
    simp only [exec]
    exact whenRunning_held held _

theorem updLink_eq_self {p : Port} {f : LinkPort → LinkPort} (h : f (s.links.get p) = s.links.get p) :
    s.updLink p f = s := by
  rw [updLink, Bank.upd_eq_self h]

/-- Taking the level that stands keeps the item, so every presence change of a held part is the same update. -/
theorem exec_presenceChange_held (held : s.held ≠ none) (p : Port) (present : Bool) :
    exec (.presenceChange p present) s = .next (s.updLink p fun l => { l with presence := present }) := by
  refine (show execPresenceChange p present s = _ from congrArg Host.Outcome.next ?_)
  split
  · next same => exact (updLink_eq_self (by rw [← same])).symm
  · exact if_pos (Option.isSome_iff_ne_none.mpr held)

/-- What the part is while it is held, whatever held it. -/
theorem holdReset_holds (s : State) (cause : StartCause) :
    (s.holdReset cause).held = some cause ∧ (s.holdReset cause).out = s.out ∧ (∀ l, (s.holdReset cause).alert l = false) ∧
      (s.holdReset cause).tableInit = none ∧ (s.holdReset cause).claimTimer = none ∧
      ∀ p, (s.holdReset cause).link p = .off ∧
        ((s.holdReset cause).links.get p).presence = (s.links.get p).presence := by
  have port : ∀ p, (s.holdReset cause).links.get p = LinkPort.reset (s.links.get p).presence := fun p => Bank.get_tab _ p
  refine ⟨rfl, rfl, alert_held (Option.some_ne_none cause), rfl, rfl, fun p => ?_⟩
  rw [link, port]
  exact ⟨rfl, rfl⟩

/-! ### FABRIC RESTART -/

theorem exec_fabricRestart {l : MgmtLink} (running : s.held = none) (holder : s.holder = some l) :
    exec (.fabricRestart l) s =
      .next (s.restart.respond l 8 .done (.number ((List.finRange 32).countP s.restarted))) :=
  show execFabricRestart l s = _ from
    (whenRunning_running running _).trans (congrArg _ (mutating_holder holder 8 _))

/-- A HELLO on each of several ports is recorded in their order, and changes nothing else. -/
theorem sendHellos_eq (ps : List Port) (s : State) :
    ps.foldl (fun t p => t.sendHello p) s = { s with out := s.out ++ ps.map fun p => .word p (.hello s.plane p) } := by
  induction ps generalizing s with
  | nil => simp
  | cons p ps ih =>
    rw [List.foldl_cons, ih]
    simp [sendHello, emit]

/-- A port in UP or EXCHANGE exchanges identities anew; of any other port only the buffer count is cleared. -/
theorem afterRestart_eq (l : LinkPort) (now : Time) :
    l.afterRestart now =
      if l.link = .up ∨ l.link = .exchange then { l.toExchange now with retry := 0, bufferCount := 0 }
      else { l with bufferCount := 0 } := by
  unfold LinkPort.afterRestart
  cases l.link <;> rfl

theorem restarted_eq (s : State) : s.restarted = fun p => decide (s.link p = .up ∨ s.link p = .exchange) :=
  funext fun _ => (Bool.decide_or _ _).symm

theorem any_isUp_iff (s : State) : (List.finRange 32).any s.isUp = true ↔ ∃ p, s.link p = .up := by
  simp [isUp_iff]

end Sys2Proof.Machine.State

section
open Sys2Proof Sys2Proof.Machine Sys2Proof.Machine.State

/-- Settles O18: both ways to hold the part hold it alike. -/
theorem resetLineHoldsThePart : Obligations.ResetLineHoldsThePart := by
  unfold Obligations.ResetLineHoldsThePart
  refine ⟨⟨fun s running => ?_, fun s strap presence => ?_⟩, fun s held =>
    ⟨fun c => exec_held held, exec_presenceChange_held held, alert_held held, fillWord_held held⟩⟩
  · refine ⟨s.holdReset .line, ?_, holdReset_holds s .line⟩
    exact show execResetLineAssert s = _ from congrArg _ (if_neg (by simp [running]))
  · have powered := holdReset_holds
      { s with links := Bank.tab fun p => { s.links.get p with presence := presence.getLsbD p.val } } .power
    simp only [Bank.get_tab] at powered
    exact ⟨_, rfl, powered⟩

/-- Settles O52: the restart's HELLOs are one record behind the cleared blocks, and PORT_DOWN is raised before them. -/
theorem fabricRestartClearsSchedulingState : Obligations.FabricRestartClearsSchedulingState := by
  unfold Obligations.FabricRestartClearsSchedulingState
  intro s l running holder restarts cleared
  have blocks : { s.clearScheduling with links := Bank.tab fun p => (s.links.get p).afterRestart s.now } = cleared := by
    simp only [afterRestart_eq]
    rfl
  have ports : (List.finRange 32).filter s.restarted = restarts := by rw [restarted_eq]
  have restart : s.restart = { (if ∃ p, s.link p = .up then cleared.raise .portDown else cleared) with
      out := s.out ++ restarts.map fun p => .word p (.hello s.plane p) } := by
    simp only [State.restart, blocks, ports, sendHellos_eq, any_isUp_iff]
    split <;> rfl
  rw [exec_fabricRestart running holder, restart, List.countP_eq_length_filter, ports]
  rfl

end
end

section
/-! PROOF. Proofs/Answers.lean: the one answer of every command message, behind what its event sends (R152, R154). -/

namespace Sys2Proof.Machine.State

variable {s u : State} {l : MgmtLink} {code : Byte}

/-! ### What an answered command leaves -/

/-- `t` is what a command of this link and code leaves of `s`: control words alone and then one response join what was
sent, and the response is the only change when its status is not DONE (R152, R154). -/
def Answered (s : State) (l : MgmtLink) (code : Byte) (t : State) : Prop :=
  ∃ words r, t.out = s.out ++ words ++ [.response l r] ∧ r.code = code ∧
    (∀ o ∈ words, ∃ p w, o = .word p w) ∧ (r.status ≠ .done → t = s.emit (.response l r))

namespace Answered

/-- A command that only responds, whatever its status. -/
theorem unchanged (s : State) (l : MgmtLink) (code : Byte) (st : Status) (d : ResponseData) :
    s.Answered l code (s.respond l code st d) :=
  ⟨[], ⟨code, st, d⟩, by simp, rfl, by simp, fun _ => rfl⟩

/-- A command that is carried out, sends control words and is answered DONE. -/
theorem done_after {words : List Output} (sent : u.out = s.out ++ words) (control : ∀ o ∈ words, ∃ p w, o = .word p w)
    (d : ResponseData) : s.Answered l code (u.respond l code .done d) :=
  ⟨words, ⟨code, .done, d⟩, by rw [respond_out, sent], rfl, control, fun refused => absurd rfl refused⟩

/-- A command that is carried out, sends nothing and is answered DONE. -/
theorem done (d : ResponseData) (silent : u.out = s.out := by rfl) : s.Answered l code (u.respond l code .done d) :=
  done_after (words := []) (by rw [silent, List.append_nil]) (by simp) d

/-- A mutating command is answered, with or without steering. -/
theorem mutating {f : State → State} (carried : s.Answered l code (f s)) : s.Answered l code (s.mutating l code f) := by
  by_cases holder : s.holder = some l
  · rwa [mutating_holder holder]
  · rw [mutating_other holder]
    exact unchanged s l code _ _

end Answered

/-- A command message of a running part has the next state that its effect gives. -/
theorem answered_of_running {f : State → State} (running : s.held = none) (answered : s.Answered l code (f s)) :
    ∃ t, whenRunning s f = .next t ∧ s.Answered l code t :=
  ⟨f s, whenRunning_running running f, answered⟩

/-! ### What the operations of commands send -/

theorem applyEnable_out (s : State) (p : Port) (enable : Bool) : (s.applyEnable p enable).out = s.out := by
  cases link : s.link p <;> cases enable <;> simp [applyEnable, link]

theorem setPort_out (s : State) (p : Port) (x : PortSettings) : (s.setPort p x).out = s.out := by
  rw [setPort_eq, applyEnable_out, withSettings]
  split <;> rfl

theorem applyAll_out (es : List StagedEntry) (s : State) : (State.applyAll es s).1.out = s.out := by
  rw [applyAll_frame]

theorem restart_out (s : State) :
    s.restart.out = s.out ++ ((List.finRange 32).filter s.restarted).map fun p => .word p (.hello s.plane p) := by
  rw [restart, sendHellos_eq]
  split <;> rfl

/-! ### Every command message is answered (R152, R154) -/

section
variable (running : s.held = none)
include running

theorem identify_answered : ∃ t, execIdentify l s = .next t ∧ s.Answered l 1 t :=
  answered_of_running running (.unchanged ..)

theorem claim_answered : ∃ t, execClaim l s = .next t ∧ s.Answered l 2 t := by
  refine answered_of_running running ?_
  split
  · exact .done _
  · exact .unchanged ..

theorem refresh_answered : ∃ t, execRefresh l s = .next t ∧ s.Answered l 3 t := by
  refine answered_of_running running ?_
  split
  · exact .done _
  · exact .unchanged ..

theorem release_answered : ∃ t, execRelease l s = .next t ∧ s.Answered l 4 t := by
  refine answered_of_running running ?_
  split
  · exact .done _
  · exact .unchanged ..

theorem setTiming_answered (window timeout : Byte) :
    ∃ t, execSetTiming l window timeout s = .next t ∧ s.Answered l 5 t := by
  refine answered_of_running running (.mutating ?_)
  split
  · exact .done _
  · exact .unchanged ..

theorem setPort_answered (port enable hold policy sole turn threshold : Byte) :
    ∃ t, execSetPort l port enable hold policy sole turn threshold s = .next t ∧ s.Answered l 6 t := by
  refine answered_of_running running (.mutating ?_)
  split
  · exact .done _ (setPort_out s _ _)
  · exact .unchanged ..

theorem readPort_answered (port : Byte) : ∃ t, execReadPort l port s = .next t ∧ s.Answered l 7 t := by
  refine answered_of_running running ?_
  split
  · exact .done _
  · exact .unchanged ..

theorem fabricRestart_answered : ∃ t, execFabricRestart l s = .next t ∧ s.Answered l 8 t :=
  answered_of_running running (.mutating (.done_after (restart_out s) (by simp) _))

theorem stageMap_answered (dest state port : Byte) :
    ∃ t, execStageMap l dest state port s = .next t ∧ s.Answered l 9 t := by
  refine answered_of_running running (.mutating ?_)
  split
  · exact .unchanged ..
  · split
    · split
      · exact .done _
      · split
        · exact .unchanged ..
        · exact .done _
    · exact .unchanged ..

theorem discardStaging_answered : ∃ t, execDiscardStaging l s = .next t ∧ s.Answered l 10 t :=
  answered_of_running running (.mutating (.done _))

theorem commitMap_answered : ∃ t, execCommitMap l s = .next t ∧ s.Answered l 11 t := by
  refine answered_of_running running (.mutating ?_)
  split
  · exact .unchanged ..
  · split
    · exact .unchanged ..
    · exact .done (u := { (State.applyAll s.staging s).1 with staging := [] }) _ (applyAll_out s.staging s)

theorem readStaging_answered : ∃ t, execReadStaging l s = .next t ∧ s.Answered l 12 t :=
  answered_of_running running (.unchanged ..)

theorem readMap_answered : ∃ t, execReadMap l s = .next t ∧ s.Answered l 13 t := by
  refine answered_of_running running ?_
  split <;> exact .unchanged ..

theorem writeGroup_answered (g : BitVec 16) (valid prune : Byte) (members : List Byte) :
    ∃ t, execWriteGroup l g valid prune members s = .next t ∧ s.Answered l 14 t := by
  refine answered_of_running running (.mutating ?_)
  split
  · exact .unchanged ..
  · split
    · exact .done _
    · exact .unchanged ..

theorem readGroup_answered (g : BitVec 16) : ∃ t, execReadGroup l g s = .next t ∧ s.Answered l 15 t := by
  refine answered_of_running running ?_
  split
  · exact .unchanged ..
  · split <;> exact .unchanged ..

theorem readRequests_answered (port : Byte) : ∃ t, execReadRequests l port s = .next t ∧ s.Answered l 16 t := by
  refine answered_of_running running ?_
  split <;> exact .unchanged ..

theorem readEvents_answered : ∃ t, execReadEvents l s = .next t ∧ s.Answered l 17 t :=
  answered_of_running running (.unchanged ..)

theorem clearEvents_answered (kinds : BitVec 16) : ∃ t, execClearEvents l kinds s = .next t ∧ s.Answered l 18 t := by
  refine answered_of_running running ?_
  split
  · exact .done _ (setView_out s l _)
  · exact .unchanged ..

theorem setMask_answered (kinds : BitVec 16) : ∃ t, execSetMask l kinds s = .next t ∧ s.Answered l 19 t := by
  refine answered_of_running running ?_
  split
  · exact .done _ (setView_out s l _)
  · exact .unchanged ..

theorem readCapture_answered : ∃ t, execReadCapture l s = .next t ∧ s.Answered l 20 t :=
  answered_of_running running (.unchanged ..)

theorem clearCapture_answered : ∃ t, execClearCapture l s = .next t ∧ s.Answered l 21 t :=
  answered_of_running running (.mutating (.done _))

theorem readTallies_answered (port : Byte) : ∃ t, execReadTallies l port s = .next t ∧ s.Answered l 22 t := by
  refine answered_of_running running ?_
  split <;> exact .unchanged ..

theorem clearTallies_answered (port : Byte) : ∃ t, execClearTallies l port s = .next t ∧ s.Answered l 23 t := by
  refine answered_of_running running (.mutating ?_)
  split
  · exact .done _
  · split
    · exact .done _
    · exact .unchanged ..

theorem startMeter_answered (chan port direction gate : Byte) :
    ∃ t, execStartMeter l chan port direction gate s = .next t ∧ s.Answered l 24 t := by
  refine answered_of_running running (.mutating ?_)
  split
  · split
    · exact .unchanged ..
    · exact .done _
  · exact .unchanged ..

theorem stopMeter_answered (chan : Byte) : ∃ t, execStopMeter l chan s = .next t ∧ s.Answered l 25 t := by
  refine answered_of_running running (.mutating ?_)
  split
  · exact .done _
  · exact .unchanged ..

theorem readMeter_answered (chan : Byte) : ∃ t, execReadMeter l chan s = .next t ∧ s.Answered l 26 t := by
  refine answered_of_running running ?_
  split
  · simp only
    split <;> exact .unchanged ..
  · exact .unchanged ..

end

/-- Each command message of a running part, whatever branch it takes, is answered once. -/
theorem answered_of_exec (running : s.held = none) {c : Instr} {args : List Byte}
    (message : Formats.argsOf c = some (l, code, args)) : ∃ t, exec c s = .next t ∧ s.Answered l code t := by
  cases c <;> cases message
  case identify => exact identify_answered running
  case claim => exact claim_answered running
  case refresh => exact refresh_answered running
  case release => exact release_answered running
  case setTiming => exact setTiming_answered running _ _
  case setPort => exact setPort_answered running _ _ _ _ _ _ _
  case readPort => exact readPort_answered running _
  case fabricRestart => exact fabricRestart_answered running
  case stageMap => exact stageMap_answered running _ _ _
  case discardStaging => exact discardStaging_answered running
  case commitMap => exact commitMap_answered running
  case readStaging => exact readStaging_answered running
  case readMap => exact readMap_answered running
  case writeGroup => exact writeGroup_answered running _ _ _ _
  case readGroup => exact readGroup_answered running _
  case readRequests => exact readRequests_answered running _
  case readEvents => exact readEvents_answered running
  case clearEvents => exact clearEvents_answered running _
  case setMask => exact setMask_answered running _
  case readCapture => exact readCapture_answered running
  case clearCapture => exact clearCapture_answered running
  case readTallies => exact readTallies_answered running _
  case clearTallies => exact clearTallies_answered running _
  case startMeter => exact startMeter_answered running _ _ _ _
  case stopMeter => exact stopMeter_answered running _
  case readMeter => exact readMeter_answered running _

end Sys2Proof.Machine.State

section
open Sys2Proof Sys2Proof.Machine Sys2Proof.Machine.State

/-- Settles O46, command by command: each branch of a command only responds, or is carried out and answered DONE. -/
theorem everyCommandIsAnsweredOnceAndRefusalsChangeNothing :
    Obligations.EveryCommandIsAnsweredOnceAndRefusalsChangeNothing := by
  unfold Obligations.EveryCommandIsAnsweredOnceAndRefusalsChangeNothing
  intro c l code args s running message
  obtain ⟨t, run, words, r, answer⟩ := answered_of_exec running message
  exact ⟨t, words, r, run, answer⟩

end
end

section
/-! PROOF. Proofs/Steering.lean: management messages that are counted or unknown, IDENTIFY, the holder of steering and
its claim timer, and SET TIMING (R153, R158 to R164). -/

namespace Sys2Proof.Machine.State

variable {s : State}

/-! ### Messages that carry no command, and IDENTIFY (R153, R164) -/

theorem exec_messageCheckFailure_a (running : s.held = none) :
    exec (.messageCheckFailure .a) s = .next { s with discardedA := min 65535 (s.discardedA + 1) } :=
  show execMessageCheckFailure .a s = _ from whenRunning_running running _

theorem exec_messageCheckFailure_b (running : s.held = none) :
    exec (.messageCheckFailure .b) s = .next { s with discardedB := min 65535 (s.discardedB + 1) } :=
  show execMessageCheckFailure .b s = _ from whenRunning_running running _

theorem exec_unknownCommand (running : s.held = none) (l : MgmtLink) (code : Byte) :
    exec (.unknownCommand l code) s = .next (s.respond l code .badArgument .none) :=
  show execUnknownCommand l code s = _ from whenRunning_running running _

theorem exec_identify (running : s.held = none) (l : MgmtLink) :
    exec (.identify l) s = .next (s.respond l 1 .done (.identity (s.identity l))) :=
  show execIdentify l s = _ from whenRunning_running running _

/-! ### The holder of steering (R158 to R160) -/

theorem exec_claim (running : s.held = none) {l : MgmtLink} (unclaimed : s.holder = none ∨ s.holder = some l) :
    exec (.claim l) s = .next ((s.startClaim l).respond l 2 .done (.claimed (some l) s.claimTimeout)) :=
  (show execClaim l s = _ from whenRunning_running running _).trans (congrArg _ (if_pos unclaimed))

theorem exec_claim_held (running : s.held = none) {l l' : MgmtLink} (holder : s.holder = some l') (other : l' ≠ l) :
    exec (.claim l) s = .next (s.respond l 2 .held (.holder (some l'))) := by
  refine (show execClaim l s = _ from whenRunning_running running _).trans (congrArg _ ?_)
  rw [holder]
  exact if_neg (by simpa using other)

/-- A restart of the claim timer by the link that holds steering leaves the holder. -/
theorem startClaim_of_holder {l : MgmtLink} (holder : s.holder = some l) :
    s.startClaim l = { s with claimTimer := some (s.now + s.claimTimeout.time) } := by
  rw [startClaim, ← holder]

theorem exec_refresh (running : s.held = none) {l : MgmtLink} (holder : s.holder = some l) :
    exec (.refresh l) s = .next ((s.startClaim l).respond l 3 .done (.refreshed s.claimTimeout)) :=
  (show execRefresh l s = _ from whenRunning_running running _).trans (congrArg _ (if_pos holder))

theorem exec_refresh_refused (running : s.held = none) {l : MgmtLink} (other : s.holder ≠ some l) :
    exec (.refresh l) s = .next (s.respond l 3 .notSteering (.holder s.holder)) :=
  (show execRefresh l s = _ from whenRunning_running running _).trans (congrArg _ (if_neg other))

theorem exec_release (running : s.held = none) {l : MgmtLink} (holder : s.holder = some l) :
    exec (.release l) s = .next (s.dropSteering.respond l 4 .done (.number s.staging.length)) :=
  (show execRelease l s = _ from whenRunning_running running _).trans (congrArg _ (if_pos holder))

theorem exec_release_refused (running : s.held = none) {l : MgmtLink} (other : s.holder ≠ some l) :
    exec (.release l) s = .next (s.respond l 4 .notSteering .none) :=
  (show execRelease l s = _ from whenRunning_running running _).trans (congrArg _ (if_neg other))

/-! ### The claim timer and the settings (R161, R163) -/

theorem exec_claimTimerExpiry (running : s.held = none) {due : Time} (timer : s.claimTimer = some due) :
    exec (.claimTimerExpiry due) s = .next ((s.arrive due).dropSteering.raise .claimLapsed) :=
  (show execClaimTimerExpiry due s = _ from whenRunning_running running _).trans (congrArg _ (if_pos timer))

theorem exec_claimTimerExpiry_stale (running : s.held = none) {due : Time} (timer : s.claimTimer ≠ some due) :
    exec (.claimTimerExpiry due) s = .next s :=
  (show execClaimTimerExpiry due s = _ from whenRunning_running running _).trans (congrArg _ (if_neg timer))

theorem exec_setTiming (running : s.held = none) {l : MgmtLink} (holder : s.holder = some l) {w t : Byte}
    {window : GrantWindow} {timeout : ClaimTimeout} (hw : windowArg w = some window) (ht : timeoutArg t = some timeout) :
    exec (.setTiming l w t) s =
      .next ({ s with grantWindow := window, claimTimeout := timeout }.respond l 5 .done .none) := by
  refine (show execSetTiming l w t s = _ from whenRunning_running running _).trans ?_
  simp only [mutating_holder holder, hw, ht]

theorem exec_setTiming_refused (running : s.held = none) {l : MgmtLink} (holder : s.holder = some l) {w t : Byte}
    (refused : windowArg w = none ∨ timeoutArg t = none) :
    exec (.setTiming l w t) s = .next (s.respond l 5 .badArgument .none) := by
  refine (show execSetTiming l w t s = _ from whenRunning_running running _).trans ?_
  rcases refused with window | timeout
  · simp only [mutating_holder holder, window]
  · simp only [mutating_holder holder, timeout]
    cases windowArg w <;> rfl

end Sys2Proof.Machine.State

section
open Sys2Proof Sys2Proof.Machine Sys2Proof.Machine.State

/-- Settles O47, message by message; IDENTIFY's count is that of the link it came on. -/
theorem messagesAreCountedIdentifiedAndAnswered : Obligations.MessagesAreCountedIdentifiedAndAnswered := by
  unfold Obligations.MessagesAreCountedIdentifiedAndAnswered
  refine ⟨fun s running =>
    ⟨exec_messageCheckFailure_a running, exec_messageCheckFailure_b running, exec_unknownCommand running⟩, ?_⟩
  intro s l running
  rw [exec_identify running]
  cases l <;> rfl

/-- Settles O50, by the holder, by the timer that stands, and by the range of each field. -/
theorem steeringAndTimingSettings : Obligations.SteeringAndTimingSettings := by
  unfold Obligations.SteeringAndTimingSettings
  refine ⟨fun s l running => ⟨exec_claim running, fun l' => exec_claim_held running, fun holder => ?_,
    exec_refresh_refused running, exec_release running, exec_release_refused running,
    fun due => ⟨exec_claimTimerExpiry running, exec_claimTimerExpiry_stale running⟩⟩, ?_⟩
  · rw [← startClaim_of_holder holder, exec_refresh running holder]
  · intro s l w t running holder
    exact ⟨fun w' t' => exec_setTiming running holder, exec_setTiming_refused running holder⟩

end
end

section
/-! PROOF. Proofs/Reports.lean: event kinds as bits of a set and the alert lines, the offers to the fault capture, and the
commands on views, capture, tallies and rate meters (R173 to R184). -/

namespace Sys2Proof.Machine

/-! ### Event kinds and the bits of a set (R173, section 11.3) -/

namespace EventKind

theorem ofNat_index (k : EventKind) : ofNat k.index = k := by cases k <;> rfl

theorem index_ofNat {i : Nat} (bit : i < 13) : (ofNat i).index = i := by interval_cases i <;> rfl

theorem index_lt (k : EventKind) : k.index < 13 := by cases k <;> decide

theorem index_inj {k k' : EventKind} : k.index = k'.index ↔ k = k' :=
  ⟨fun same => by rw [← ofNat_index k, same, ofNat_index], congrArg index⟩

theorem getLsbD_only (k k' : EventKind) : k.only.getLsbD k'.index = decide (k' = k) := by
  have shifted : k.only = BitVec.twoPow 13 k.index := (BitVec.twoPow_eq 13 k.index).symm
  rw [shifted, BitVec.getLsbD_twoPow]
  simp [index_lt, index_inj, eq_comm]

/-- A set is not empty exactly while it holds a kind: every bit of a set is a kind's. -/
theorem set_ne_zero_iff (ks : EventSet) : ks ≠ 0#13 ↔ ∃ k : EventKind, ks.getLsbD k.index = true := by
  constructor
  · contrapose!
    intro nothing
    refine BitVec.eq_of_getLsbD_eq fun i bit => ?_
    rw [← index_ofNat bit, Bool.eq_false_iff.mpr (nothing (ofNat i)), BitVec.getLsbD_zero]
  · rintro ⟨k, holds⟩ rfl
    simp at holds

end EventKind

/-! ### The states of a meter channel (R182 to R184) -/

namespace Meter

theorem busy_iff (x : Meter) : x.busy = true ↔ x.state = .counting ∧ x.gate ≠ .opened := by simp [busy]

/-- What a command does that a busy channel refuses. -/
theorem next_if_busy (x : Meter) (refused carried : State) :
    (x.state = .counting ∧ x.gate ≠ .opened →
      (.next (if x.busy then refused else carried) : Host.Outcome State Fault Refusal) = .next refused) ∧
    (¬ (x.state = .counting ∧ x.gate ≠ .opened) →
      (.next (if x.busy then refused else carried) : Host.Outcome State Fault Refusal) = .next carried) := by
  rw [← busy_iff]
  exact ⟨fun h => congrArg _ (if_pos h), fun h => congrArg _ (if_neg h)⟩

theorem stopped_counting {x : Meter} (counting : x.state = .counting) :
    x.stopped = { x with state := .done, timer := none } := if_pos counting

theorem stopped_still {x : Meter} (still : x.state ≠ .counting) : x.stopped = x := if_neg still

end Meter

namespace State

/-! ### Raising a kind and the alert lines (R173, R174) -/

theorem raise_frame (s : State) (k : EventKind) :
    s.raise k = { s with viewA := (s.raise k).viewA, viewB := (s.raise k).viewB } := rfl

theorem alert_iff (s : State) (l : MgmtLink) : s.alert l = true ↔
    s.held = none ∧ ∃ k : EventKind, (s.view l).flags.getLsbD k.index = true ∧ (s.view l).mask.getLsbD k.index = true := by
  have visible := EventKind.set_ne_zero_iff (s.view l).visible
  simp only [EventView.visible, BitVec.getLsbD_and, Bool.and_eq_true] at visible
  simpa [alert, EventView.visible] using fun _ => visible

/-! ### Offers to the fault capture (R177) -/

theorem offer_empty {s : State} (empty : s.capture = none) (f : FaultRecord) :
    s.offer f = { s with capture := some f }.raise .faultCaptured := by rw [offer, empty]

theorem offer_full {s : State} {r : FaultRecord} (full : s.capture = some r) (f : FaultRecord) :
    s.offer f = { s with moreFaults := true } := by rw [offer, full]

theorem offerGroups_nothing {s : State} {gs : List (List FaultRecord)} (nothing : gs.flatten = []) :
    s.offerGroups gs = s := by
  have blocks : gs.filter (fun g => !g.isEmpty) = [] := by simpa [List.filter_eq_nil_iff] using nothing
  rw [offerGroups, blocks]

/-- Whatever the free value, the offers are taken in one list, as many as the blocks make together, with the whole of
one block's offers at its front; only the count of free values used may move besides (log 3). -/
theorem offerGroups_eq (s : State) {gs : List (List FaultRecord)} (offers : gs.flatten ≠ []) :
    ∃ g ∈ gs, g ≠ [] ∧ ∃ rest used, (g ++ rest).length = gs.flatten.length ∧
      s.offerGroups gs = { s with freeCount := used }.offerAll (g ++ rest) := by
  have member : ∀ g ∈ gs.filter fun g => !g.isEmpty, g ∈ gs ∧ g ≠ [] := fun g => by simp
  rw [← List.flatten_filter_not_isEmpty] at offers ⊢
  rw [offerGroups]
  generalize gs.filter (fun g => !g.isEmpty) = blocks at member offers
  match blocks with
  | [] => exact absurd rfl offers
  | [g] =>
    obtain ⟨block, some_offer⟩ := member g (by simp)
    exact ⟨g, block, some_offer, [], s.freeCount, by simp, by simp⟩
  | g :: g' :: gs' =>
    have k_lt : Config.firstOffer s.freeCount % (g :: g' :: gs').length < (g :: g' :: gs').length :=
      Nat.mod_lt _ (by simp)
    obtain ⟨block, some_offer⟩ := member _ (List.getElem_mem k_lt)
    exact ⟨_, block, some_offer, _, s.freeCount + 1, (List.getElem_cons_eraseIdx_perm k_lt).flatten.length_eq,
      by rw [List.getElem_eq_getD []]⟩

/-- Offers to a full record only set more-faults, whichever block's come first. -/
theorem offerGroups_full {s : State} {gs : List (List FaultRecord)} (offers : gs.flatten ≠ []) {r : FaultRecord}
    (full : s.capture = some r) :
    (s.offerGroups gs).capture = some r ∧ (s.offerGroups gs).moreFaults = true := by
  obtain ⟨g, -, some_offer, rest, used, -, taken⟩ := s.offerGroups_eq offers
  rw [taken, offerAll_capture, offerAll_moreFaults]
  simp [full, some_offer]

/-- Offers to an empty record: the first offer of one block fills it, and every other sets more-faults. -/
theorem offerGroups_empty {s : State} {gs : List (List FaultRecord)} (offers : gs.flatten ≠ [])
    (empty : s.capture = none) :
    (∃ g ∈ gs, ∃ f, g.head? = some f ∧ (s.offerGroups gs).capture = some f) ∧
      (s.offerGroups gs).moreFaults = (s.moreFaults || decide (1 < gs.flatten.length)) ∧
      ∀ l, (s.offerGroups gs).view l = (s.view l).raise .faultCaptured := by
  obtain ⟨g, block, some_offer, rest, used, count, taken⟩ := s.offerGroups_eq offers
  obtain ⟨f, fs, rfl⟩ := List.exists_cons_of_ne_nil some_offer
  rw [taken, offerAll_capture, offerAll_moreFaults, count]
  refine ⟨⟨_, block, f, rfl, by simp [empty]⟩, by simp [empty], fun l => ?_⟩
  rw [offerAll_view, if_pos ⟨empty, by simp⟩]
  cases l <;> rfl

/-! ### Commands on the event views and the capture (R175, R176, R178) -/

variable {s : State} {l : MgmtLink}

theorem exec_readEvents (running : s.held = none) (l : MgmtLink) :
    exec (.readEvents l) s = .next (s.respond l 17 .done (.events (s.view l).visible (s.view l).mask)) :=
  show execReadEvents l s = _ from whenRunning_running running _

theorem exec_clearEvents (running : s.held = none) (l : MgmtLink) {ks : BitVec 16} {set : EventSet}
    (kinds : ks.toNat = set.toNat) :
    exec (.clearEvents l ks) s =
      .next ((s.setView l ⟨(s.view l).flags &&& ~~~set, (s.view l).mask⟩).respond l 18 .done
        (.visible ((s.view l).flags &&& ~~~set &&& (s.view l).mask))) := by
  refine (show execClearEvents l ks s = _ from whenRunning_running running _).trans ?_
  simp only [kindsArg_of_toNat kinds, EventView.visible]

theorem exec_setMask (running : s.held = none) (l : MgmtLink) {ks : BitVec 16} {set : EventSet}
    (kinds : ks.toNat = set.toNat) :
    exec (.setMask l ks) s =
      .next ((s.setView l ⟨(s.view l).flags, set⟩).respond l 19 .done (.visible ((s.view l).flags &&& set))) := by
  refine (show execSetMask l ks s = _ from whenRunning_running running _).trans ?_
  simp only [kindsArg_of_toNat kinds, EventView.visible]

theorem exec_readCapture (running : s.held = none) (l : MgmtLink) :
    exec (.readCapture l) s = .next (s.respond l 20 .done (.capture s.capture s.moreFaults)) :=
  show execReadCapture l s = _ from whenRunning_running running _

theorem exec_clearCapture (running : s.held = none) (holder : s.holder = some l) :
    exec (.clearCapture l) s = .next
      ({ s with capture := none, moreFaults := false }.respond l 21 .done (.capture s.capture s.moreFaults)) :=
  (show execClearCapture l s = _ from whenRunning_running running _).trans (congrArg _ (mutating_holder holder 21 _))

theorem exec_clearCapture_refused (running : s.held = none) (other : s.holder ≠ some l) :
    exec (.clearCapture l) s = .next (s.respond l 21 .notSteering .none) :=
  (show execClearCapture l s = _ from whenRunning_running running _).trans (congrArg _ (mutating_other other 21 _))

/-! ### Tallies (R180) -/

theorem exec_readTallies (running : s.held = none) (l : MgmtLink) {port : Byte} {p : Port} (number : p.val = port.toNat) :
    exec (.readTallies l port) s = .next (s.respond l 22 .done (.tallies (s.links.get p).tallies)) := by
  refine (show execReadTallies l port s = _ from whenRunning_running running _).trans ?_
  simp only [numArg_of_val number]

theorem exec_clearTallies (running : s.held = none) (holder : s.holder = some l) {port : Byte} {p : Port}
    (number : p.val = port.toNat) :
    exec (.clearTallies l port) s = .next ((s.updLink p LinkPort.clearTallies).respond l 23 .done .none) := by
  refine (show execClearTallies l port s = _ from whenRunning_running running _).trans ?_
  have one_port : port.toNat ≠ 255 := by omega
  simp only [mutating_holder holder, if_neg one_port, numArg_of_val number]

theorem exec_clearTallies_all (running : s.held = none) (holder : s.holder = some l) :
    exec (.clearTallies l 255) s = .next
      ({ s with links := Bank.tab fun p => (s.links.get p).clearTallies }.respond l 23 .done .none) :=
  (show execClearTallies l 255 s = _ from whenRunning_running running _).trans (congrArg _ (mutating_holder holder 23 _))

/-! ### Commands on rate meters (R182 to R184) -/

section
variable {chan : Byte} {m : Chan}

/-- START METER with its fields in range, by whether the channel is busy. -/
theorem exec_startMeter (running : s.held = none) (holder : s.holder = some l) (channel : m.val = chan.toNat)
    {port direction gate : Byte} {p : Port} {d : Direction} {g : Gate} (number : p.val = port.toNat)
    (way : directionArg direction = some d) (time : gateArg gate = some g) :
    exec (.startMeter l chan port direction gate) s = .next
      (if (s.meters.get m).busy then s.respond l 24 .meterBusy .none
        else { s with meters := s.meters.set m (Meter.started s.now p d g) }.respond l 24 .done .none) := by
  refine (show execStartMeter l chan port direction gate s = _ from whenRunning_running running _).trans ?_
  simp only [mutating_holder holder, numArg_of_val channel, numArg_of_val number, way, time]

theorem exec_stopMeter (running : s.held = none) (holder : s.holder = some l) (channel : m.val = chan.toNat) :
    exec (.stopMeter l chan) s = .next ({ s with meters := s.meters.set m (s.meters.get m).stopped }.respond l 25 .done
      (.meterState (s.meters.get m).stopped.state)) := by
  refine (show execStopMeter l chan s = _ from whenRunning_running running _).trans ?_
  simp only [mutating_holder holder, numArg_of_val channel, Bank.upd]

theorem exec_meterGateExpiry (running : s.held = none) {due : Time} (counting : (s.meters.get m).state = .counting)
    (timer : (s.meters.get m).timer = some due) :
    exec (.meterGateExpiry m due) s =
      .next ({ s.arrive due with meters := s.meters.set m (s.meters.get m).stopped }.raise .meterDone) :=
  (show execMeterGateExpiry m due s = _ from whenRunning_running running _).trans
    (congrArg _ (if_pos ⟨counting, timer⟩))

theorem exec_meterGateExpiry_stale (running : s.held = none) {due : Time}
    (stale : (s.meters.get m).state ≠ .counting ∨ (s.meters.get m).timer ≠ some due) :
    exec (.meterGateExpiry m due) s = .next s :=
  (show execMeterGateExpiry m due s = _ from whenRunning_running running _).trans
    (congrArg _ (if_neg (not_and_or.mpr stale)))

/-- READ METER of a channel, by whether it is busy. -/
theorem exec_readMeter (running : s.held = none) (l : MgmtLink) (channel : m.val = chan.toNat) :
    exec (.readMeter l chan) s = .next
      (if (s.meters.get m).busy then s.respond l 26 .meterBusy .none
        else s.respond l 26 .done (.meter (s.meters.get m).state (s.meters.get m).port (s.meters.get m).direction
          (s.meters.get m).gate (s.meters.get m).count)) := by
  refine (show execReadMeter l chan s = _ from whenRunning_running running _).trans ?_
  simp only [numArg_of_val channel]

end

end State

end Sys2Proof.Machine

section
open Sys2Proof Sys2Proof.Machine Sys2Proof.Machine.State

/-- Settles O16: one offer by the record, and several blocks' offers as one list of which one block's are the front. -/
theorem firstOfferFillsTheCaptureOthersSetMoreFaults :
    Obligations.FirstOfferFillsTheCaptureOthersSetMoreFaults := by
  unfold Obligations.FirstOfferFillsTheCaptureOthersSetMoreFaults
  exact ⟨fun s f empty => offer_empty empty f, fun s f r full => offer_full full f, fun s gs =>
    ⟨offerGroups_nothing, fun offers r => offerGroups_full offers, offerGroups_empty⟩⟩

/-- Settles O15: a kind is one bit of a set, and every bit is a kind's. -/
theorem raisingSetsBothViewsAndDrivesTheAlertLines : Obligations.RaisingSetsBothViewsAndDrivesTheAlertLines := by
  unfold Obligations.RaisingSetsBothViewsAndDrivesTheAlertLines
  refine ⟨fun s k l => ?_, alert_iff⟩
  rw [raise_view]
  refine ⟨fun k' => ?_, rfl, s.raise_frame k⟩
  rw [EventView.raise, BitVec.getLsbD_or, EventKind.getLsbD_only, Bool.or_comm]

/-- Settles O58, command by command. -/
theorem eventCommandsAndCaptureCommands : Obligations.EventCommandsAndCaptureCommands := by
  unfold Obligations.EventCommandsAndCaptureCommands
  exact ⟨fun s l running => ⟨exec_readEvents running l, fun ks set kinds =>
      ⟨exec_clearEvents running l kinds, exec_setMask running l kinds⟩⟩,
    fun s l running => ⟨exec_readCapture running l, exec_clearCapture running, exec_clearCapture_refused running⟩⟩

/-- Settles O59, for one port and for all. -/
theorem talliesAreReadAndCleared : Obligations.TalliesAreReadAndCleared := by
  unfold Obligations.TalliesAreReadAndCleared
  exact fun s l running => ⟨fun port p number =>
    ⟨exec_readTallies running l number, fun holder => exec_clearTallies running holder number⟩,
    exec_clearTallies_all running⟩

/-- Settles O60: START METER and READ METER by whether the channel is busy, STOP METER and the expiry by its state. -/
theorem metersAreStartedStoppedGatedAndRead : Obligations.MetersAreStartedStoppedGatedAndRead := by
  unfold Obligations.MetersAreStartedStoppedGatedAndRead
  intro s l chan m running channel x busy
  refine ⟨fun holder port direction gate p d g number way time => ?_, fun holder => ?_, fun due counting timer => ?_,
    fun due => exec_meterGateExpiry_stale running, ?_⟩
  · rw [exec_startMeter running holder channel number way time]
    exact x.next_if_busy _ _
  · rw [exec_stopMeter running holder channel]
    refine ⟨fun counting => ?_, fun still => ?_⟩
    · rw [Meter.stopped_counting counting]
    · rw [Meter.stopped_still still, Bank.set_get]
  · rw [exec_meterGateExpiry running counting timer, Meter.stopped_counting counting]
    rfl
  · rw [exec_readMeter running l channel]
    exact x.next_if_busy _ _

end
end

section
/-! PROOF. Proofs/ReadBack.lean: what a line card or a supervisor sends, read back as the command it was made of (R185 to
R187). -/

namespace Sys2Proof.Machine

namespace Formats

/-! ### Upstream words and cells (R185, R186) -/

/-- A line card's word of each kind is the made word whose unused bits are zero. -/
theorem readWord_upWord {p : Port} {c : Instr} {w : BitVec 48} (arrives : arrivesOn p c) (sent : upWord c = some w) :
    readWord p w = c := by
  cases c <;> cases sent <;> cases arrives
  case mark => exact readWord_mark p _
  case hello n => exact readWord_hello p n _
  case request d c n => exact readWord_request p d c n _
  case groupRequest g c => exact readWord_groupRequest p g c _
  case resync => exact readWord_resync p _
  case credit n => exact readWord_credit p n _

/-- A field of one bit, read as a bit. -/
theorem getLsbD_eq_of_extract {n k : Nat} {w : BitVec n} {b : Bool} (field : w.extractLsb' k 1 = BitVec.ofBool b) :
    w.getLsbD k = b := by
  have bit := congrArg (fun f : BitVec 1 => f.getLsbD 0) field
  simpa using bit

section Header

variable (x : UpCell)

theorem upHeader_tag : (upHeader x).extractLsb' 50 8 = tagBits x.tag :=
  (extract_in_front _ (0#16) 34 8).trans <| (extract_in_front _ x.flow 10 8).trans <|
    (extract_in_front _ _ 2 8).trans <| (extract_in_front _ _ 1 8).trans <|
      (extract_in_front _ _ 0 8).trans (extract_last _ _)

theorem upHeader_first : (upHeader x).extractLsb' 49 1 = BitVec.ofBool x.first :=
  (extract_in_front _ (0#16) 33 1).trans <| (extract_in_front _ x.flow 9 1).trans <|
    (extract_in_front _ _ 1 1).trans <| (extract_in_front _ _ 0 1).trans (extract_last _ _)

theorem upHeader_last : (upHeader x).extractLsb' 48 1 = BitVec.ofBool x.last :=
  (extract_in_front _ (0#16) 32 1).trans <| (extract_in_front _ x.flow 8 1).trans <|
    (extract_in_front _ _ 0 1).trans (extract_last _ _)

theorem upHeader_length : (upHeader x).extractLsb' 40 8 = BitVec.ofFin x.length :=
  (extract_in_front _ (0#16) 24 8).trans <| (extract_in_front _ x.flow 0 8).trans (extract_last _ _)

theorem upHeader_flow : (upHeader x).extractLsb' 16 24 = x.flow :=
  (extract_in_front _ (0#16) 0 24).trans (extract_last _ _)

end Header

/-- A cell with a good check is its fields. -/
theorem readCell_upHeader (p : Port) (x : UpCell) :
    readCell p (upHeader x) x.payload (cellCheck (upHeader x) x.payload) = .cell p x := by
  rw [readCell, if_neg (not_not_intro rfl), upHeader_tag, upHeader_length, upHeader_flow,
    getLsbD_eq_of_extract (upHeader_first x), getLsbD_eq_of_extract (upHeader_last x)]
  rfl

/-! ### Command messages (R187) -/

theorem u16_length (n : Nat) : (u16 n).length = 2 := rfl

/-- A field of two bytes, read as one number. -/
theorem bytes_of_u16 (n : Nat) : (BitVec.ofNat 8 (n / 256) ++ BitVec.ofNat 8 n : BitVec 16) = BitVec.ofNat 16 n := by
  apply BitVec.eq_of_toNat_eq
  rw [toNat_append_mul, BitVec.toNat_ofNat, BitVec.toNat_ofNat, BitVec.toNat_ofNat]
  omega

theorem bytes_of_u16_toNat (w : BitVec 16) : BitVec.ofNat 8 (w.toNat / 256) ++ BitVec.ofNat 8 w.toNat = w := by
  rw [bytes_of_u16, BitVec.ofNat_toNat, BitVec.setWidth_eq]

/-- The argument bytes of a command spell it: a field of two bytes stands most significant byte first, and the count
in front of a member list is its length. -/
theorem readArgs_of_argsOf {c : Instr} {l : MgmtLink} {code : Byte} {args : List Byte} (fits : c.wf = true)
    (message : argsOf c = some (l, code, args)) : readArgs l code args = some c := by
  cases c <;> cases message
  case writeGroup g valid prune members =>
    have short : members.length < 256 := of_decide_eq_true fits
    have count : members.length = (BitVec.ofNat 8 members.length).toNat := by
      rw [BitVec.toNat_ofNat, Nat.mod_eq_of_lt short]
    exact (if_pos count).trans
      (congrArg (fun w => some (Instr.writeGroup l w valid prune members)) (bytes_of_u16_toNat g))
  case readGroup g => exact congrArg (fun w => some (Instr.readGroup l w)) (bytes_of_u16_toNat g)
  case clearEvents ks => exact congrArg (fun w => some (Instr.clearEvents l w)) (bytes_of_u16_toNat ks)
  case setMask ks => exact congrArg (fun w => some (Instr.setMask l w)) (bytes_of_u16_toNat ks)
  all_goals rfl

/-- The longest arguments are those of a WRITE GROUP with 255 members. -/
theorem argsOf_length {c : Instr} {l : MgmtLink} {code : Byte} {args : List Byte} (fits : c.wf = true)
    (message : argsOf c = some (l, code, args)) : args.length ≤ 260 := by
  cases c <;> cases message
  case writeGroup g valid prune members =>
    have short : members.length < 256 := of_decide_eq_true fits
    show members.length + 5 ≤ 260
    omega
  all_goals simp [u16]

/-- The bytes of a command message in front of its check: length, code and arguments. -/
def messageFront (code : Byte) (args : List Byte) : List Byte := u16 (args.length + 5) ++ [code] ++ args

theorem messageFront_length (code : Byte) (args : List Byte) : (messageFront code args).length = args.length + 3 := by
  simp [messageFront, u16_length]
  omega

theorem commandMessage_eq (code : Byte) (args : List Byte) :
    commandMessage code args = messageFront code args ++ messageCheck (messageFront code args) := rfl

theorem commandMessage_length (code : Byte) (args : List Byte) : (commandMessage code args).length = args.length + 5 := by
  rw [commandMessage_eq, List.length_append, messageFront_length]
  rfl

/-- A message is as many bytes as its length field gives, and what follows them is not read. -/
theorem readBurst_commandMessage (l : MgmtLink) (code : Byte) {args : List Byte} (after : List Byte)
    (short : args.length + 5 < 2 ^ 16) :
    readBurst l (commandMessage code args ++ after) = some (readMessage l (commandMessage code args)) := by
  have field : (BitVec.ofNat 8 ((args.length + 5) / 256) ++ BitVec.ofNat 8 (args.length + 5) : BitVec 16).toNat =
      (commandMessage code args).length := by
    rw [bytes_of_u16, BitVec.toNat_ofNat, Nat.mod_eq_of_lt short, commandMessage_length]
  have whole : ¬ (commandMessage code args ++ after).length < (commandMessage code args).length := by
    rw [List.length_append]
    omega
  have burst : readBurst l (commandMessage code args ++ after) =
      if (commandMessage code args ++ after).length < (commandMessage code args).length then some (.messageCheckFailure l)
      else some (readMessage l ((commandMessage code args ++ after).take (commandMessage code args).length)) := by
    rw [← field]
    rfl
  rw [burst, if_neg whole, List.take_left]

/-- A message with a good check is read by its code and arguments alone. -/
theorem readMessage_commandMessage (l : MgmtLink) (code : Byte) (args : List Byte) :
    readMessage l (commandMessage code args) = (readArgs l code args).getD (.unknownCommand l code) := by
  have front : (commandMessage code args).length - 2 = (messageFront code args).length := by
    rw [commandMessage_length, messageFront_length]
    omega
  have enough : ¬ (commandMessage code args).length < 5 := by
    rw [commandMessage_length]
    omega
  rw [readMessage, if_neg enough, front, commandMessage_eq, List.drop_left, List.take_left, if_neg (not_not_intro rfl)]
  rfl

end Formats

end Sys2Proof.Machine

section
open Sys2Proof Sys2Proof.Machine Sys2Proof.Machine.Formats

/-- Settles O13, words by their kinds and cells by the fields of their header. -/
theorem upstreamWordsAndCellsReadBack : Obligations.UpstreamWordsAndCellsReadBack := by
  unfold Obligations.UpstreamWordsAndCellsReadBack
  exact ⟨fun _ _ _ => readWord_upWord, readCell_upHeader⟩

/-- Settles O14: the burst is cut to the message, the message to its arguments, and these spell the command. -/
theorem commandMessagesReadBack : Obligations.CommandMessagesReadBack := by
  unfold Obligations.CommandMessagesReadBack
  intro c l code args after fits message
  have short : args.length + 5 < 2 ^ 16 := by
    have := argsOf_length fits message
    omega
  rw [readBurst_commandMessage l code after short, readMessage_commandMessage, readArgs_of_argsOf fits message,
    Option.getD_some]

end
end

section
/-! PROOF. Proofs/Arguments.lean: the argument bytes of management commands and their ranges (section 11.3, R187). -/

namespace Sys2Proof.Machine

/-! ### Enumerated bytes -/

theorem flagArg_eq (b : Byte) : flagArg b = [false, true][b.toNat]? := by
  unfold flagArg
  match b.toNat with
  | 0 | 1 | _ + 2 => rfl

theorem policyArg_eq (b : Byte) : policyArg b = policies[b.toNat]? := by
  unfold policyArg
  match b.toNat with
  | 0 | 1 | 2 | 3 | _ + 4 => rfl

theorem windowArg_eq (b : Byte) : windowArg b = grantWindows[b.toNat]? := by
  unfold windowArg
  match b.toNat with
  | 0 | 1 | 2 | 3 | 4 | _ + 5 => rfl

theorem timeoutArg_eq (b : Byte) : timeoutArg b = claimTimeouts[b.toNat]? := by
  unfold timeoutArg
  match b.toNat with
  | 0 | 1 | 2 | 3 | _ + 4 => rfl

theorem directionArg_eq (b : Byte) : directionArg b = directions[b.toNat]? := by
  unfold directionArg
  match b.toNat with
  | 0 | 1 | _ + 2 => rfl

theorem gateArg_eq (b : Byte) : gateArg b = gates[b.toNat]? := by
  unfold gateArg
  match b.toNat with
  | 0 | 1 | 2 | 3 | _ + 4 => rfl

/-! ### Numbers and mappings -/

/-- A number is in range exactly when it is the value of some `Fin n`. -/
theorem numArg_eq_some_iff {n v : Nat} {k : Fin n} : numArg n v = some k ↔ v = k.val := by
  refine ⟨fun read => ?_, fun same => numArg_of_val same.symm⟩
  unfold numArg at read
  split at read <;> cases read
  rfl

/-- The port of a VOID is not read; a state above 2 names no mapping (R29). -/
theorem mappingArg_eq_some_iff {st p : Byte} {m : Mapping} : mappingArg st p = some m ↔
    (st.toNat = 0 ∧ m = .void) ∨
      ∃ q : Port, q.val = p.toNat ∧ ((st.toNat = 1 ∧ m = .parked q) ∨ (st.toNat = 2 ∧ m = .active q)) := by
  unfold mappingArg
  match st.toNat with
  | 0 => simp [@eq_comm _ m]
  | 1 | 2 => simp [numArg_eq_some_iff, @eq_comm _ m, @eq_comm _ p.toNat]
  | _ + 3 => simp

/-! ### Member lists (R110, R111) -/

/-- A member list in range: at most 64 bytes, each a destination. -/
def membersInRange (ms : List Byte) : Prop := ms.length ≤ 64 ∧ ∀ b ∈ ms, b.toNat < 64

theorem membersArg_of_inRange {ms : List Byte} (range : membersInRange ms) :
    membersArg ms = some ((List.finRange 64).filter fun d => ms.any fun b => b.toNat == d.val) := by
  rw [membersArg, if_pos (by simpa [membersInRange] using range)]

theorem membersArg_of_not_inRange {ms : List Byte} (range : ¬ membersInRange ms) : membersArg ms = none := by
  rw [membersArg, if_neg (by simpa [membersInRange] using range)]

theorem membersArg_eq_none_iff {ms : List Byte} : membersArg ms = none ↔ ¬ membersInRange ms :=
  ⟨fun refused range => by simp [membersArg_of_inRange range] at refused, membersArg_of_not_inRange⟩

theorem not_membersInRange_iff {ms : List Byte} :
    ¬ membersInRange ms ↔ 64 < ms.length ∨ ∃ b ∈ ms, 64 ≤ b.toNat := by
  rw [membersInRange, not_and_or]
  simp

/-- The list read is ascending, so it holds each destination that some byte names once. -/
theorem membersArg_some {ms : List Byte} {ds : List Dest} (read : membersArg ms = some ds) :
    membersInRange ms ∧ ds.Pairwise (· < ·) ∧ ∀ d : Dest, d ∈ ds ↔ ∃ b ∈ ms, b.toNat = d.val := by
  by_cases range : membersInRange ms
  · obtain rfl := Option.some.inj ((membersArg_of_inRange range).symm.trans read)
    exact ⟨range, (List.pairwise_lt_finRange 64).filter _, fun d => by simp⟩
  · rw [membersArg_of_not_inRange range] at read
    cases read

/-! ### SET PORT (R64, R148) -/

/-- The settings are read field by field; the turn is below 16 and the threshold is not 0. -/
theorem settingsArg_eq_some_iff {e h pol src k th : Byte} {x : PortSettings} :
    settingsArg e h pol src k th = some x ↔
      flagArg e = some x.enable ∧ flagArg h = some x.holdEnable ∧ policyArg pol = some x.policy ∧
        x.sole.val = src.toNat ∧ x.turn = k.toNat ∧ k.toNat < 16 ∧ x.threshold = th.toNat ∧ th.toNat ≠ 0 := by
  constructor
  · intro read
    simp only [settingsArg, Option.bind_eq_bind, Option.bind_eq_some_iff, Option.ite_none_left_eq_some,
      Option.some.injEq] at read
    obtain ⟨_, enabled, _, held, _, order, _, source, _, length, positive, rfl⟩ := read
    have port := numArg_eq_some_iff.mp source
    have turn := numArg_eq_some_iff.mp length
    exact ⟨enabled, held, order, port.symm, turn.symm, turn ▸ Fin.isLt _, rfl, positive⟩
  · obtain ⟨enable, hold, policy, sole, turn, threshold⟩ := x
    rintro ⟨enabled, held, order, source, rfl, short, rfl, positive⟩
    have length : numArg 16 k.toNat = some ⟨k.toNat, short⟩ := numArg_of_val rfl
    simp only [settingsArg, enabled, held, order, numArg_of_val source, length, Option.bind_eq_bind, Option.bind_some,
      if_neg positive]

end Sys2Proof.Machine

section
open Sys2Proof Sys2Proof.Machine

/-- Settles O49, one kind of argument after another. -/
theorem argumentBytesAreReadAsListed : Obligations.ArgumentBytesAreReadAsListed := by
  unfold Obligations.ArgumentBytesAreReadAsListed
  refine ⟨fun b => ⟨flagArg_eq b, policyArg_eq b, windowArg_eq b, timeoutArg_eq b, directionArg_eq b, gateArg_eq b⟩,
    fun _ _ _ => numArg_eq_some_iff, fun _ _ _ => mappingArg_eq_some_iff, fun ms ds read => ?members,
    fun _ => membersArg_eq_none_iff.trans not_membersInRange_iff, fun _ _ _ _ _ _ _ => settingsArg_eq_some_iff⟩
  obtain ⟨⟨count, destinations⟩, ascending, named⟩ := membersArg_some read
  exact ⟨count, destinations, ascending, named⟩

end
end

section
/-! PROOF. Proofs/Queue.lean: a step by what waits in the queue of commands (logs 1 and 14). -/

namespace Sys2Proof.Machine

variable {s : State}

theorem step_of_pending_eq_cons {c : Instr} {rest : List Instr} (front : s.pending = c :: rest) :
    step s = exec c { s with pending := rest } := by
  rw [step, front]

theorem step_of_pending_eq_nil (empty : s.pending = []) : step s = .next { s with now := s.now + 1 } := by
  rw [step, empty]

end Sys2Proof.Machine

section
open Sys2Proof Sys2Proof.Machine

/-- Settles O1, by whether a command waits. -/
theorem stepRunsTheFrontCommand : Obligations.StepRunsTheFrontCommand := by
  unfold Obligations.StepRunsTheFrontCommand
  exact fun _ => ⟨fun _ _ => step_of_pending_eq_cons, step_of_pending_eq_nil⟩

end
end

section
/-! PROOF. Proofs/Drains.lean: the law of drain counts, shown for one effect by how far the counts lead the records and
cells that they count. -/

namespace Sys2Proof.Machine.State

variable {s t : State}

/-! ### Unicast cells over all queues -/

theorem recordsToward_eq (s : State) (d : Dest) : s.recordsToward d = s.recordCount (·.toward d) := rfl

theorem cellsToward_congr (queue : ∀ j, (t.transmit.get j).queue = (s.transmit.get j).queue) (d : Dest) :
    t.cellsToward d = s.cellsToward d := by
  simp only [cellsToward, queue]

/-- Only the queue of `j` has changed: the cells change as its own do. -/
theorem cellsToward_upd {j : Port} {f : Transmit → Transmit} (stages : t.transmit = s.transmit.upd j f) (d : Dest) :
    t.cellsToward d + (s.transmit.get j).queue.countP (TxEntry.isToward d) =
      s.cellsToward d + (f (s.transmit.get j)).queue.countP (TxEntry.isToward d) := by
  unfold cellsToward
  rw [← sum_ports_single j ((s.transmit.get j).queue.countP (TxEntry.isToward d)),
    ← sum_ports_single j ((f (s.transmit.get j)).queue.countP (TxEntry.isToward d)), ← List.sum_map_add,
    ← List.sum_map_add]
  congr 2
  funext k
  rw [stages, Bank.get_upd]
  by_cases hk : j = k
  · subst hk
    simp [Nat.add_comm]
  · simp [hk, Ne.symm hk]

/-! ### How far drain counts lead -/

/-- Each drain count is `lead` more than the records and cells for its destination: what a claim has taken for a record
still to be placed, or what a record that has left hands on with its cell. -/
def DrainsLead (s : State) (lead : Dest → Nat) : Prop :=
  ∀ d, (s.portMap.get d).drain = s.recordsToward d + s.cellsToward d + lead d

/-- Each drain count is the records and cells for its destination. -/
def DrainsExact (s : State) : Prop := ∀ d, (s.portMap.get d).drain = s.recordsToward d + s.cellsToward d

theorem drainsLead_zero : (s.DrainsLead fun _ => 0) ↔ s.DrainsExact := by simp [DrainsLead, DrainsExact]

/-- One for the destination that a record names. -/
def leadOf (r : GrantRecord) (d : Dest) : Nat := if r.toward d then 1 else 0

/-- No drain count has risen. -/
def DrainsFall (s t : State) : Prop := ∀ d, (t.portMap.get d).drain ≤ (s.portMap.get d).drain

theorem DrainOk.counts (h : s.DrainOk) : s.DrainsExact := fun d => (h.2 d).1

/-- The law stands where counts are exact again and have risen, if at all, with the tables ready. -/
theorem DrainOk.of_counts (h : s.DrainOk) (exact_ : t.DrainsExact) (ready : t.tablesReady = s.tablesReady)
    (init : t.tableInit = s.tableInit) (falls : s.tablesReady = false → s.DrainsFall t) : t.DrainOk := by
  refine ⟨by rw [ready, init]; exact h.1, fun d => ⟨exact_ d, fun notReady => ?_⟩⟩
  rw [ready] at notReady
  exact Nat.le_zero.mp ((falls notReady d).trans_eq ((h.2 d).2 notReady))

theorem DrainsExact.congr (h : s.DrainsExact) (records : t.records = s.records)
    (queue : ∀ j, (t.transmit.get j).queue = (s.transmit.get j).queue)
    (drain : ∀ d, (t.portMap.get d).drain = (s.portMap.get d).drain) : t.DrainsExact := by
  intro d
  rw [drain, recordsToward_eq, recordCount_congr records, cellsToward_congr queue]
  exact h d

theorem DrainOk.congr (h : s.DrainOk) (records : t.records = s.records)
    (queue : ∀ j, (t.transmit.get j).queue = (s.transmit.get j).queue)
    (drain : ∀ d, (t.portMap.get d).drain = (s.portMap.get d).drain) (ready : t.tablesReady = s.tablesReady)
    (init : t.tableInit = s.tableInit) : t.DrainOk :=
  h.of_counts (h.counts.congr records queue drain) ready init fun _ d => (drain d).le

theorem DrainOk.of_accounts (h : s.DrainOk) (same : t.accounts = s.accounts) : t.DrainOk :=
  h.congr (congrArg Accounts.records same) (congrFun (congrArg Accounts.queue same))
    (congrFun (congrArg Accounts.drain same)) (congrArg Accounts.tablesReady same) (congrArg Accounts.tableInit same)

/-! ### Lapses and placed records -/

theorem lapse_drain (s : State) (i : Port) (r : GrantRecord) (d : Dest) :
    ((s.lapse i r).portMap.get d).drain = (s.portMap.get d).drain - leadOf r d := by
  rw [lapse_portMap, returnGrant_entry, leadOf]
  split <;> rfl

/-- A lapse takes a record from its list and its one from the count of its destination. -/
theorem DrainsLead.lapse {lead : Dest → Nat} (h : s.DrainsLead lead) {i : Port} {r : GrantRecord}
    (leads : s.Leads i r) : (s.lapse i r).DrainsLead lead := by
  intro d
  have exact_ := h d
  have count : _ + leadOf r d = _ := recordCount_remove leads (·.toward d)
  rw [lapse_drain, recordsToward_eq, recordCount_congr (lapse_records s i r), cellsToward_congr (lapse_queue s i · r)]
  rw [recordsToward_eq] at exact_
  omega

theorem drainOk_lapse (h : s.DrainOk) {i : Port} {r : GrantRecord} (leads : s.Leads i r) : (s.lapse i r).DrainOk :=
  h.of_counts (drainsLead_zero.mp ((drainsLead_zero.mpr h.counts).lapse leads)) (by simp) (by simp) fun _ d =>
    (lapse_drain s i r d).trans_le (Nat.sub_le _ _)

theorem DrainsLead.vacated {lead : Dest → Nat} (h : s.DrainsLead lead) (i : Port) : (s.vacated i).DrainsLead lead :=
  vacated_of_lapse (Q := fun t => t.DrainsLead lead) h (fun _ _ leads => h.lapse leads) i

theorem vacated_tables (s : State) (i : Port) :
    (s.vacated i).tablesReady = s.tablesReady ∧ (s.vacated i).tableInit = s.tableInit :=
  vacated_of_lapse (Q := fun t => t.tablesReady = s.tablesReady ∧ t.tableInit = s.tableInit) ⟨rfl, rfl⟩
    (fun _ _ _ => by simp) i

theorem vacated_drain_le (s : State) (i : Port) (d : Dest) :
    ((s.vacated i).portMap.get d).drain ≤ (s.portMap.get d).drain :=
  vacated_of_lapse (Q := fun t => (t.portMap.get d).drain ≤ (s.portMap.get d).drain) le_rfl
    (fun i r _ => (lapse_drain s i r d).trans_le (Nat.sub_le _ _)) i

theorem placeRecord_portMap (s : State) (i : Port) (target : GrantTarget) (c : Cls) :
    (s.placeRecord i target c).portMap = (s.vacated i).portMap := by simp [placeRecord_eq]

theorem placeRecord_tables (s : State) (i : Port) (target : GrantTarget) (c : Cls) :
    (s.placeRecord i target c).tablesReady = s.tablesReady ∧ (s.placeRecord i target c).tableInit = s.tableInit := by
  simp [placeRecord_eq, vacated_tables]

/-- The record that is placed takes up what the counts lead by for it. -/
theorem DrainsLead.placeRecord {i : Port} {target : GrantTarget} {c : Cls}
    (h : s.DrainsLead (leadOf (s.newRecord i target c))) : (s.placeRecord i target c).DrainsExact := by
  intro d
  have vacant := h.vacated i d
  rw [placeRecord_portMap, recordsToward_eq, placeRecord_recordCount,
    cellsToward_congr (placeRecord_queue s i · target c)]
  rw [recordsToward_eq, leadOf] at vacant
  omega

/-! ### Grants -/

/-- A unicast grant that is made names an ACTIVE entry, which no table has before it is ready. -/
theorem grantUnicast_eq_of_not_ready (notReady : s.tablesReady = false) (j : Port) (x : Candidate) :
    s.grantUnicast j x = s := by
  have void : (s.mapEntry x.dest).map = .void := by simp [mapEntry, notReady, MapEntry.void]
  simp [grantUnicast, presentClaims_eq, void]

/-- The claim at the Port Map leads the counts by one for the record that the grant places. -/
theorem claimed_lead (h : s.DrainsExact) (j : Port) (x : Candidate) :
    (s.claimed x).DrainsLead (leadOf ((s.claimed x).newRecord x.ingress (.unicast x.dest j) x.cls)) := by
  intro d
  have exact_ := h d
  have records : (s.claimed x).recordsToward d = s.recordsToward d := rfl
  have cells : (s.claimed x).cellsToward d = s.cellsToward d := rfl
  have names : ((s.claimed x).newRecord x.ingress (.unicast x.dest j) x.cls).toward d = decide (x.dest = d) := rfl
  have entry : (s.claimed x).portMap = s.portMap.upd x.dest fun e => { e with drain := e.drain + 1 } := rfl
  rw [records, cells, leadOf, names, entry, Bank.get_upd]
  by_cases hd : x.dest = d
  · simp only [hd, if_true, decide_true]
    omega
  · simpa only [hd, if_false, decide_false, Bool.false_eq_true, Nat.add_zero] using exact_

theorem drainOk_grant (h : s.DrainOk) (j : Port) (x : Candidate) : (s.grantUnicast j x).DrainOk := by
  cases ready : s.tablesReady with
  | false => rwa [grantUnicast_eq_of_not_ready ready]
  | true =>
    rcases grantUnicast_cases s j x with same | made
    · rwa [same]
    rw [made]
    have placed : ((s.claimed x).placeRecord x.ingress (.unicast x.dest j) x.cls).DrainsExact :=
      (claimed_lead h.counts j x).placeRecord
    have spent : (((s.claimed x).placeRecord x.ingress (.unicast x.dest j) x.cls).updArb j
        fun a => a.granted x).DrainsExact := placed
    obtain ⟨sameReady, init⟩ := placeRecord_tables (s.claimed x) x.ingress (.unicast x.dest j) x.cls
    exact h.of_counts spent sameReady init fun notReady => absurd (ready.symm.trans notReady) (by decide)

theorem drainOk_reserve (h : s.DrainOk) (i : Port) (q : McastRequest) (k : SlotNo) :
    (s.grantMulticast i q k).DrainOk := by
  have exact_ : (s.reserved i q k).DrainsExact := h.counts
  have unnamed : leadOf ((s.reserved i q k).newRecord i (.multicast q.group k) q.cls) = fun _ => 0 :=
    funext fun _ => if_neg Bool.false_ne_true
  have lead := drainsLead_zero.mpr exact_
  rw [← unnamed] at lead
  obtain ⟨ready, init⟩ := placeRecord_tables (s.reserved i q k) i (.multicast q.group k) q.cls
  refine h.of_counts lead.placeRecord ready init fun _ d => ?_
  rw [grantMulticast_eq, placeRecord_portMap]
  exact vacated_drain_le (s.reserved i q k) i d

/-! ### Cells -/

theorem handOff_tables (s : State) (i : Port) (r : GrantRecord) (x : CellContent) :
    (s.handOff i r x).portMap = s.portMap ∧ (s.handOff i r x).tablesReady = s.tablesReady ∧
      (s.handOff i r x).tableInit = s.tableInit := by
  unfold handOff
  split
  · exact ⟨rfl, rfl, rfl⟩
  · simp only [fillSlot]
    split <;> exact ⟨rfl, rfl, rfl⟩

/-- The cell of a record that has left is queued for the destination that the record named. -/
theorem handOff_cellsToward (s : State) (i : Port) (r : GrantRecord) (x : CellContent) (d : Dest) :
    (s.handOff i r x).cellsToward d = s.cellsToward d + leadOf r d := by
  unfold handOff
  split
  · next d' j target =>
    have names : r.toward d = decide (d' = d) := by simp [GrantRecord.toward, target]
    have cells := cellsToward_upd (updTx_transmit s j fun t =>
      { t with queue := t.queue ++ [.unicast i r.cls d' x] }) d
    rw [List.countP_append, List.countP_singleton, ← Nat.add_assoc, Nat.add_right_comm] at cells
    rw [Nat.add_right_cancel cells, leadOf, names]
    rfl
  · next g k target =>
    have names : r.toward d = false := by simp [GrantRecord.toward, target]
    rw [cellsToward_congr (s := s) fun j => by rw [fillSlot_transmit], leadOf, names,
      if_neg Bool.false_ne_true, Nat.add_zero]

theorem drainOk_take (h : s.DrainOk) {i : Port} {r : GrantRecord} (x : CellContent) (leads : s.Leads i r) :
    ((s.matched i r).handOff i r x).DrainOk := by
  obtain ⟨portMap, ready, init⟩ := handOff_tables (s.matched i r) i r x
  refine h.of_counts (fun d => ?_) ready init fun _ d => by rw [portMap]; rfl
  have exact_ : (s.portMap.get d).drain = _ := h.counts d
  have count : (s.matched i r).recordCount (·.toward d) + leadOf r d = _ := recordCount_remove leads (·.toward d)
  have cells : (s.matched i r).cellsToward d = s.cellsToward d := rfl
  rw [portMap, handOff_cellsToward, recordsToward_eq, recordCount_congr (handOff_records (s.matched i r) i r x), cells]
  rw [recordsToward_eq] at exact_
  have entry : (s.matched i r).portMap = s.portMap := rfl
  rw [entry]
  omega

/-- A copy that is delivered is no unicast cell. -/
theorem drainOk_deliver (h : s.DrainOk) (j : Port) (k : SlotNo) : (s.deliver j k).DrainOk := by
  refine h.of_counts (fun d => ?_) rfl rfl fun _ _ => le_rfl
  have cells := cellsToward_upd (s := s) (t := s.deliver j k) (j := j)
    (f := fun t => { t with queue := t.queue ++ [.copy k] }) rfl d
  simp only [List.countP_append, List.countP_singleton, TxEntry.isToward, Bool.false_eq_true, if_false] at cells
  have exact_ : (s.portMap.get d).drain = _ := h.counts d
  have records : (s.deliver j k).recordsToward d = s.recordsToward d := rfl
  have entry : (s.deliver j k).portMap = s.portMap := rfl
  rw [entry, records]
  omega

theorem complete_drain (s : State) (j : Port) (e : TxEntry) (d : Dest) :
    ((s.complete j e).portMap.get d).drain = (s.portMap.get d).drain - if e.isToward d then 1 else 0 := by
  cases e with
  | unicast src c d' x =>
    have entry : (s.complete j (.unicast src c d' x)).portMap =
        s.portMap.upd d' fun e => { e with drain := e.drain - 1 } := rfl
    rw [entry, Bank.get_upd]
    by_cases hd : d' = d <;> simp [TxEntry.isToward, hd]
  | copy k => rfl

theorem drainOk_complete (h : s.DrainOk) {j : Port} {e : TxEntry} {es : List TxEntry}
    (queue : (s.transmit.get j).queue = e :: es) : (s.complete j e).DrainOk := by
  obtain ⟨lists, -, transmit⟩ := complete_blocks s j e
  have tables : (s.complete j e).tablesReady = s.tablesReady ∧ (s.complete j e).tableInit = s.tableInit := by
    cases e <;> exact ⟨rfl, rfl⟩
  refine h.of_counts (fun d => ?_) tables.1 tables.2 fun _ d => (complete_drain s j e d).trans_le (Nat.sub_le _ _)
  have exact_ := h.counts d
  have records : (s.complete j e).recordsToward d = s.recordsToward d :=
    recordCount_congr (funext fun k => by rw [State.records, lists]; rfl) _
  have cells := cellsToward_upd transmit d
  simp only [queue, List.tail_cons, List.countP_cons] at cells
  rw [complete_drain, records]
  omega

/-! ### Every effect -/

/-- Table initialisation completes on drain counts of 0, so on no records and no cells. -/
theorem drainOk_tables (h : s.DrainOk) (running : s.tableInit ≠ none) :
    { s with portMap := Bank.fill MapEntry.void, tablesReady := true, tableInit := none }.DrainOk := by
  refine ⟨fun again => absurd rfl again, fun d => ⟨?_, fun notReady => nomatch notReady⟩⟩
  obtain ⟨exact_, zero⟩ := h.2 d
  rw [zero (h.1 running)] at exact_
  rw [Bank.get_fill]
  exact exact_

/-- Every effect keeps drain counts exact. -/
theorem drainOk_effect (s t : State) (h : s.DrainOk) (e : Effect s t) : t.DrainOk := by
  have torn : ∀ u : State, u.accounts = s.accounts → ∀ p, (u.teardown p).DrainOk := fun u same p =>
    drainOk_teardown (h.of_accounts same) p
  cases e with
  | links same => exact h.of_accounts same
  | leave p f same => exact (torn _ same p).of_accounts rfl
  | enter p n => exact h.congr rfl (fun _ => rfl) (fun _ => rfl) rfl rfl
  | rejoin p n =>
    have left := (torn s rfl p).of_accounts (leaveUp_accounts s p id)
    exact left.congr rfl (fun _ => rfl) (fun _ => rfl) rfl rfl
  | credit p f => exact h.congr rfl (fun _ => rfl) (fun _ => rfl) rfl rfl
  | lapse i r leads => exact drainOk_lapse h leads
  | grant j x => exact drainOk_grant h j x
  | reserve i q k => exact drainOk_reserve h i q k
  | take i r x leads => exact drainOk_take h x leads
  | deliver j k => exact drainOk_deliver h j k
  | complete j e es queue => exact drainOk_complete h queue
  | tables running => exact drainOk_tables h running
  | clear empty tables =>
    have records : t.records = fun _ => [] := congrArg Accounts.records empty
    have queue : ∀ j, (t.transmit.get j).queue = [] := congrFun (congrArg Accounts.queue empty)
    have drain : ∀ d, (t.portMap.get d).drain = 0 := congrFun (congrArg Accounts.drain empty)
    exact ⟨tables h.1, fun d => ⟨by simp [drain, recordsToward, cellsToward, records, queue], fun _ => drain d⟩⟩

end Sys2Proof.Machine.State

section
open Sys2Proof.Machine.State

/-- Settles O8: drain counts change in each effect as the records and cells that they count. -/
theorem stepsKeepDrainCountsExact : Obligations.StepsKeepDrainCountsExact := by
  unfold Obligations.StepsKeepDrainCountsExact
  intro s t h run
  refine law_of_step drainOk_effect (fun u v _ _ ok kept => ?_) h run
  obtain ⟨-, p, present, rfl⟩ := kept
  exact ok.of_accounts rfl

end
end

section
/-! PROOF. Proofs/Bounds.lean: what the laws say of drain counts and of the two queues of an egress port (R22, R62, R98). -/

namespace Sys2Proof.Machine.State

variable {s : State}

/-! ### Queues -/

/-- A transmit queue's entries are places in flight (R45, R98). -/
theorem InFlightOk.queue_le (h : s.InFlightOk) (j : Port) : (s.transmit.get j).queue.length ≤ 8 := by
  obtain ⟨exact_, le⟩ := h j
  omega

theorem SlotsOk.holdings_le (h : s.SlotsOk) (j : Port) (k : SlotNo) : s.holdings j k ≤ 1 := by
  obtain ⟨-, -, held, -⟩ := h k
  rw [held]
  split
  · exact le_rfl
  · exact Nat.zero_le 1

theorem SlotsOk.delivery_nodup (h : s.SlotsOk) (j : Port) : (s.arbiters.get j).delivery.Nodup :=
  List.nodup_iff_count_le_one.mpr fun k => (Nat.le_add_right _ _).trans (h.holdings_le j k)

/-- The one place that a port has for a slot is taken by its delivery queue. -/
theorem SlotsOk.copy_not_mem (h : s.SlotsOk) {j : Port} {k : SlotNo} (delivery : k ∈ (s.arbiters.get j).delivery) :
    TxEntry.copy k ∉ (s.transmit.get j).queue := by
  intro copied
  have listed : 0 < (s.arbiters.get j).delivery.count k := List.count_pos_iff.mpr delivery
  have queued : 0 < (s.transmit.get j).queue.countP (TxEntry.isCopyOf k) :=
    List.countP_pos_iff.mpr ⟨.copy k, copied, decide_eq_true rfl⟩
  have one := h.holdings_le j k
  rw [holdings] at one
  omega

/-! ### Drain counts -/

theorem sum_ports_le {f : Port → Nat} {n : Nat} (h : ∀ i, f i ≤ n) : ((List.finRange 32).map f).sum ≤ 32 * n := by
  have le := List.sum_le_card_nsmul ((List.finRange 32).map f) n (by simpa using h)
  simpa using le

/-- At most 4 records on each of 32 lists (R71). -/
theorem QueuesOk.recordsToward_le (h : s.QueuesOk) (d : Dest) : s.recordsToward d ≤ 32 * 4 := by
  refine sum_ports_le fun i => ?_
  obtain ⟨-, -, -, records, -⟩ := h i
  exact List.countP_le_length.trans records

/-- At most 8 entries in each of 32 queues (R98). -/
theorem InFlightOk.cellsToward_le (h : s.InFlightOk) (d : Dest) : s.cellsToward d ≤ 32 * 8 :=
  sum_ports_le fun j => List.countP_le_length.trans (h.queue_le j)

theorem drain_le (inFlight : s.InFlightOk) (drains : s.DrainOk) (queues : s.QueuesOk) (d : Dest) :
    (s.portMap.get d).drain ≤ 384 := by
  have records := queues.recordsToward_le d
  have cells := inFlight.cellsToward_le d
  have counts := drains.counts d
  omega

end Sys2Proof.Machine.State

section
open Sys2Proof.Machine

/-- Settles O11: what drain counts and queues count is bounded list by list and slot by slot. -/
theorem lawsBoundDrainCountsAndEgressQueues : Obligations.LawsBoundDrainCountsAndEgressQueues := by
  unfold Obligations.LawsBoundDrainCountsAndEgressQueues
  intro s inFlight drains queues slots
  refine ⟨State.drain_le inFlight drains queues, fun j => ⟨inFlight.queue_le j, slots.delivery_nodup j, ?_, fun k =>
    slots.copy_not_mem⟩⟩
  have numbers := (slots.delivery_nodup j).length_le_card
  rwa [Fintype.card_fin] at numbers

end
end

section
/-! PROOF. Proofs/Resets.lean: the full reset at power-on and at the release of the reset line, and the completion of table
initialisation (R39 to R41, R169, R170). -/

namespace Sys2Proof.Machine.State

variable {s : State} {due : Time}

/-! ### Full resets -/

/-- The full reset of power-on takes the presence inputs as they come with it. -/
theorem exec_powerOn (s : State) (strap : Plane) (presence : BitVec 32) :
    exec (.powerOn strap presence false) s = .next ({ s with
      links := Bank.tab fun p => { s.links.get p with presence := presence.getLsbD p.val } }.fullReset .power strap) :=
  rfl

theorem exec_resetLineRelease {cause : StartCause} (held : s.held = some cause) (strap : Plane) :
    exec (.resetLineRelease strap) s = .next (s.fullReset cause strap) := by
  refine (show execResetLineRelease strap s = _ from congrArg Host.Outcome.next ?_)
  rw [held]

theorem exec_resetLineRelease_running (running : s.held = none) (strap : Plane) :
    exec (.resetLineRelease strap) s = .next s := by
  refine (show execResetLineRelease strap s = _ from congrArg Host.Outcome.next ?_)
  rw [running]

/-! ### The completion of table initialisation -/

theorem exec_tableInitialisationCompletion (running : s.held = none) (init : s.tableInit = some due) :
    exec (.tableInitialisationCompletion due) s = .next
      ({ s.arrive due with
        portMap := Bank.fill MapEntry.void
        groups := Bank.fill GroupEntry.invalid
        tablesReady := true
        tableInit := none }.raise .tablesReady) :=
  (show execTableInitialisationCompletion due s = _ from whenRunning_running running _).trans (congrArg _ (if_pos init))

theorem exec_tableInitialisationCompletion_stale (running : s.held = none) (init : s.tableInit ≠ some due) :
    exec (.tableInitialisationCompletion due) s = .next s :=
  (show execTableInitialisationCompletion due s = _ from whenRunning_running running _).trans (congrArg _ (if_neg init))

end Sys2Proof.Machine.State

section
open Sys2Proof Sys2Proof.Machine Sys2Proof.Machine.State

/-- Settles O17, by what begins the full reset, and by the initialisation that completes. -/
theorem fullResetsSetEveryBlock : Obligations.FullResetsSetEveryBlock := by
  unfold Obligations.FullResetsSetEveryBlock
  refine ⟨fun strap s => ⟨fun presence => ?_, fun cause held => exec_resetLineRelease held strap, fun running =>
    exec_resetLineRelease_running running strap⟩, fun due s running =>
    ⟨exec_tableInitialisationCompletion running, exec_tableInitialisationCompletion_stale running⟩⟩
  rw [exec_powerOn, fullReset]
  simp only [Bank.get_tab]
  rfl

end
end

section
/-! PROOF. Proofs/Control.lean: the items that the laws of resets, tables and steering speak of, and that the operations
on ports, queues and lists leave them alone. -/

namespace Sys2Proof.Machine

/-- The reset line, the tables' initialisation and the steering of the part (R28, R39, R157, R170). -/
structure Control where
  held : Option StartCause
  tablesReady : Bool
  tableInit : Option Time
  holder : Option MgmtLink
  claimTimer : Option Time
  staging : List StagedEntry

namespace State

def control (s : State) : Control := ⟨s.held, s.tablesReady, s.tableInit, s.holder, s.claimTimer, s.staging⟩

variable {s t : State}

/-! ### Updates of one block, and what is sent -/

@[simp] theorem control_updLink (s : State) (p : Port) (f : LinkPort → LinkPort) :
    (s.updLink p f).control = s.control := rfl

@[simp] theorem control_updIntake (s : State) (p : Port) (f : Intake → Intake) :
    (s.updIntake p f).control = s.control := rfl

@[simp] theorem control_updArb (s : State) (j : Port) (f : Arbiter → Arbiter) : (s.updArb j f).control = s.control := rfl

@[simp] theorem control_updGrants (s : State) (i : Port) (f : GrantList → GrantList) :
    (s.updGrants i f).control = s.control := rfl

@[simp] theorem control_framed (s : State) (p : Port) : (s.framed p).control = s.control := rfl

@[simp] theorem control_arrive (s : State) (due : Time) : (s.arrive due).control = s.control := rfl

@[simp] theorem control_respond (s : State) (l : MgmtLink) (code : Byte) (st : Status) (d : ResponseData) :
    (s.respond l code st d).control = s.control := rfl

@[simp] theorem control_sendHello (s : State) (p : Port) : (s.sendHello p).control = s.control := rfl

@[simp] theorem control_raise (s : State) (k : EventKind) : (s.raise k).control = s.control := rfl

@[simp] theorem control_setView (s : State) (l : MgmtLink) (v : EventView) : (s.setView l v).control = s.control := by
  simp [control]

@[simp] theorem control_offer (s : State) (x : FaultRecord) : (s.offer x).control = s.control := by simp [control]

@[simp] theorem control_offerGroups (s : State) (gs : List (List FaultRecord)) :
    (s.offerGroups gs).control = s.control := by simp [control]

@[simp] theorem control_sendWord (s : State) (p : Port) (w : DownWord) : (s.sendWord p w).control = s.control := by
  simp [control]

/-! ### Link ports -/

@[simp] theorem control_teardown (s : State) (p : Port) : (s.teardown p).control = s.control := by simp [control]

@[simp] theorem control_leaveUp (s : State) (p : Port) (f : LinkPort → LinkPort) :
    (s.leaveUp p f).control = s.control := by simp [control]

@[simp] theorem control_enterUp (s : State) (p : Port) (n : Nat) : (s.enterUp p n).control = s.control := rfl

@[simp] theorem control_enterExchange (s : State) (p : Port) : (s.enterExchange p).control = s.control := rfl

@[simp] theorem control_enterFaulted (s : State) (p : Port) : (s.enterFaulted p).control = s.control := by
  unfold enterFaulted
  split <;> simp

@[simp] theorem control_checkError (s : State) (p : Port) : (s.checkError p).control = s.control := by
  simp only [checkError]
  split <;> simp

/-- What arrives on a link leaves the control items when what takes it does. -/
theorem control_receive {p : Port} {f g : State → State} (exchanging : (f (s.framed p)).control = s.control)
    (up : (g (s.framed p)).control = s.control) : (s.receive p f g).control = s.control := by
  unfold receive
  split
  · rfl
  · rfl
  · rfl
  · rfl
  · exact exchanging
  · exact up

@[simp] theorem control_presenceMove (s : State) (p : Port) (present : Bool) :
    (s.presenceMove p present).control = s.control := by
  unfold presenceMove
  split <;> simp

@[simp] theorem control_alignmentLost (s : State) (p : Port) : (s.alignmentLost p).control = s.control := by
  simp only [alignmentLost]
  split <;> simp

@[simp] theorem control_applyEnable (s : State) (p : Port) (enable : Bool) :
    (s.applyEnable p enable).control = s.control := by
  unfold applyEnable
  split <;> simp

@[simp] theorem control_setPort (s : State) (p : Port) (x : PortSettings) : (s.setPort p x).control = s.control := by
  simp only [setPort]
  split <;> simp

@[simp] theorem control_restart (s : State) : s.restart.control = s.control := by
  simp only [restart, sendHellos_eq]
  split <;> rfl

/-! ### Grants, deliveries and cells -/

@[simp] theorem control_lapse (s : State) (i : Port) (r : GrantRecord) : (s.lapse i r).control = s.control := by
  simp [control]

@[simp] theorem control_lapseAll (s : State) (i : Port) (rs : List GrantRecord) :
    (s.lapseAll i rs).control = s.control := by
  simp [control]

@[simp] theorem control_vacated (s : State) (i : Port) : (s.vacated i).control = s.control :=
  vacated_of_lapse (Q := fun t => t.control = s.control) rfl (fun i r _ => control_lapse s i r) i

@[simp] theorem control_placeRecord (s : State) (i : Port) (target : GrantTarget) (c : Cls) :
    (s.placeRecord i target c).control = s.control := by
  simp [placeRecord_eq]

@[simp] theorem control_grantUnicast (s : State) (j : Port) (x : Candidate) :
    (s.grantUnicast j x).control = s.control := by
  rcases grantUnicast_cases s j x with same | made
  · rw [same]
  · rw [made, control_updArb, control_placeRecord]
    rfl

@[simp] theorem control_grantMulticast (s : State) (i : Port) (q : McastRequest) (k : SlotNo) :
    (s.grantMulticast i q k).control = s.control := by
  rw [grantMulticast_eq, control_placeRecord]
  rfl

@[simp] theorem control_deliver (s : State) (j : Port) (k : SlotNo) : (s.deliver j k).control = s.control := rfl

@[simp] theorem control_decideAfresh (s : State) (j : Port) : (s.decideAfresh j).control = s.control := by
  unfold decideAfresh
  split <;> simp

@[simp] theorem control_takeCredit (s : State) (p : Port) (n : Nat) : (s.takeCredit p n).control = s.control := by
  simp only [takeCredit]
  split <;> simp

@[simp] theorem control_handOff (s : State) (i : Port) (r : GrantRecord) (x : CellContent) :
    (s.handOff i r x).control = s.control := by
  unfold handOff
  split
  · rfl
  · simp only [fillSlot]
    split <;> rfl

@[simp] theorem control_offerCell (s : State) (i : Port) (x : UpCell) : (s.offerCell i x).control = s.control := by
  unfold offerCell
  split
  · exact (control_handOff _ i _ (carried x)).trans (control_lapseAll s i _)
  · simp [lateCell]

@[simp] theorem control_complete (s : State) (j : Port) (e : TxEntry) : (s.complete j e).control = s.control := by
  cases e <;> rfl

/-! ### Requests and the Port Map -/

@[simp] theorem control_accountRefusal (s : State) (p : Port) : (s.accountRefusal p).control = s.control := rfl

@[simp] theorem control_intakeWord (s : State) (p : Port) (w : RequestWord) : (s.intakeWord p w).control = s.control := by
  unfold intakeWord
  split
  · simp [overrun]
  · simp only [join]
    split <;> simp

@[simp] theorem control_resynced (s : State) (p : Port) : (s.resynced p).control = s.control := by
  simp only [resynced, control_sendWord]
  split
  · exact control_sendWord s p .resume
  · rfl

@[simp] theorem control_absorbWord (s : State) (i : Port) (w : RequestWord) : (s.absorbWord i w).1.control = s.control := by
  rw [absorbWord_frame]
  rfl

@[simp] theorem control_sendBoth (s : State) (i : Port) (w : Option DownWord) (resumes : Bool) :
    (s.sendBoth i w resumes).control = s.control := by
  have used : { s with freeCount := s.freeCount + 1 }.control = s.control := rfl
  unfold sendBoth
  split
  · rfl
  · simp
  · simp
  · split <;> simp [used]

@[simp] theorem control_absorb (s : State) (i : Port) (w : RequestWord) (rest : List RequestWord) :
    (s.absorb i w rest).control = s.control := by
  have popped : ((s.absorbWord i w).1.popped i rest).control = s.control := control_absorbWord s i w
  have absorbed : (s.absorbed i w rest).control = s.control := by
    unfold State.absorbed
    split
    · exact popped
    · exact popped
  rw [absorb_eq, control_sendBoth]
  split
  · exact absorbed
  · exact absorbed

@[simp] theorem control_applyAll (s : State) (es : List StagedEntry) : (State.applyAll es s).1.control = s.control := by
  rw [applyAll_frame]
  rfl

end State

end Sys2Proof.Machine
end

section
/-! PROOF. Proofs/Governance.lean: what each command does to the reset line, the tables and steering, and that the laws of
resets and of steering are kept (R28, R39, R41, R157, R170). -/

namespace Sys2Proof.Machine

/-- What a command may do to the control items. While the part is held in reset it may only keep them or clear them. -/
inductive Governed (s t : State) : Prop
  | kept (same : t.control = s.control) (links : s.held ≠ none → ∀ p, t.link p = s.link p)
  /-- A full reset begins, or the part is held in reset (R170). -/
  | cleared (notReady : t.tablesReady = false) (init : t.tableInit = none ↔ t.held ≠ none) (holder : t.holder = none)
      (timer : t.claimTimer = none) (staging : t.staging = []) (off : ∀ p, t.link p = .off)
  /-- Table initialisation completes (R39, R41). -/
  | completed (running : s.held = none)
      (change : t.control = { s.control with tablesReady := true, tableInit := none })
  /-- A link takes or keeps steering, and the claim timer starts anew (R158, R159). -/
  | claimed (running : s.held = none) (l : MgmtLink) (due : Time)
      (change : t.control = { s.control with holder := some l, claimTimer := some due })
  /-- Steering is given up or lost (R160, R161). -/
  | dropped (running : s.held = none)
      (change : t.control = { s.control with holder := none, claimTimer := none, staging := [] })
  /-- The holder changes the staging list (R29, R31, R34). -/
  | staged (running : s.held = none) (l : MgmtLink) (holder : s.holder = some l) (es : List StagedEntry)
      (length : s.staging.length ≤ 16 → es.length ≤ 16)
      (nodup : (s.staging.map StagedEntry.dest).Nodup → (es.map StagedEntry.dest).Nodup)
      (change : t.control = { s.control with staging := es })

namespace State

variable {s t : State}

/-! ### The laws kept -/

/-- On a running part the law of resets and tables speaks of the tables alone. -/
theorem ResetOk.of_running (running : t.held = none) (tables : t.tablesReady = true ↔ t.tableInit = none) : t.ResetOk :=
  ⟨fun held => absurd running held, fun _ => tables⟩

theorem resetOk_governed (h : s.ResetOk) (governed : Governed s t) : t.ResetOk := by
  obtain ⟨whileHeld, whileRunning⟩ := h
  have unmoved (running : s.held = none) (held : t.held = s.held) (ready : t.tablesReady = s.tablesReady)
      (init : t.tableInit = s.tableInit) : t.ResetOk :=
    .of_running (held.trans running) (by rw [ready, init]; exact whileRunning running)
  cases governed with
  | kept same links =>
    have held : t.held = s.held := congrArg Control.held same
    have ready : t.tablesReady = s.tablesReady := congrArg Control.tablesReady same
    have init : t.tableInit = s.tableInit := congrArg Control.tableInit same
    have holder : t.holder = s.holder := congrArg Control.holder same
    rw [ResetOk, held, ready, init, holder]
    refine ⟨fun inReset => ?_, whileRunning⟩
    obtain ⟨notReady, stopped, nobody, off⟩ := whileHeld inReset
    exact ⟨notReady, stopped, nobody, fun p => (links inReset p).trans (off p)⟩
  | cleared notReady init holder _ _ off =>
    refine ⟨fun inReset => ⟨notReady, init.mpr inReset, holder, off⟩, fun running => ?_⟩
    rw [notReady, init, running]
    simp
  | completed running change =>
    have ready : t.tablesReady = true := congrArg Control.tablesReady change
    have init : t.tableInit = none := congrArg Control.tableInit change
    exact .of_running ((congrArg Control.held change).trans running) (by simp [ready, init])
  | claimed running l due change =>
    exact unmoved running (congrArg Control.held change) (congrArg Control.tablesReady change)
      (congrArg Control.tableInit change)
  | dropped running change =>
    exact unmoved running (congrArg Control.held change) (congrArg Control.tablesReady change)
      (congrArg Control.tableInit change)
  | staged running l holder es length nodup change =>
    exact unmoved running (congrArg Control.held change) (congrArg Control.tablesReady change)
      (congrArg Control.tableInit change)

/-- Nobody steers, the timer is stopped, and nothing is staged. -/
theorem SteeringOk.of_none (holder : t.holder = none) (timer : t.claimTimer = none) (staging : t.staging = []) :
    t.SteeringOk := by
  simp [SteeringOk, holder, timer, staging]

theorem steeringOk_governed (h : s.SteeringOk) (governed : Governed s t) : t.SteeringOk := by
  obtain ⟨timer_iff, idle, length_le, distinct⟩ := h
  cases governed with
  | kept same =>
    have holder : t.holder = s.holder := congrArg Control.holder same
    have timer : t.claimTimer = s.claimTimer := congrArg Control.claimTimer same
    have staging : t.staging = s.staging := congrArg Control.staging same
    rw [SteeringOk, holder, timer, staging]
    exact ⟨timer_iff, idle, length_le, distinct⟩
  | cleared _ _ holder timer staging => exact .of_none holder timer staging
  | completed running change =>
    have holder : t.holder = s.holder := congrArg Control.holder change
    have timer : t.claimTimer = s.claimTimer := congrArg Control.claimTimer change
    have staging : t.staging = s.staging := congrArg Control.staging change
    rw [SteeringOk, holder, timer, staging]
    exact ⟨timer_iff, idle, length_le, distinct⟩
  | claimed running l due change =>
    have holder : t.holder = some l := congrArg Control.holder change
    have timer : t.claimTimer = some due := congrArg Control.claimTimer change
    have staging : t.staging = s.staging := congrArg Control.staging change
    rw [SteeringOk, holder, timer, staging]
    exact ⟨by simp, by simp, length_le, distinct⟩
  | dropped running change =>
    exact .of_none (congrArg Control.holder change) (congrArg Control.claimTimer change) (congrArg Control.staging change)
  | staged running l steers es length nodup change =>
    have holder : t.holder = s.holder := congrArg Control.holder change
    have timer : t.claimTimer = s.claimTimer := congrArg Control.claimTimer change
    have staging : t.staging = es := congrArg Control.staging change
    rw [SteeringOk, holder, timer, staging]
    exact ⟨timer_iff, fun nobody => absurd (steers.symm.trans nobody) (Option.some_ne_none l), length length_le,
      nodup distinct⟩

end State

/-! ### Commands -/

namespace Governed

open State

variable {s t : State}

theorem refl (s : State) : Governed s s := .kept rfl fun _ _ => rfl

/-- A command that a held part does not take. -/
theorem of_whenRunning {f : State → State} (effect : s.held = none → Governed s (f s))
    (run : whenRunning s f = .next t) : Governed s t := by
  by_cases running : s.held = none
  · rw [whenRunning_running running] at run
    cases run
    exact effect running
  · rw [whenRunning_held running] at run
    cases run
    exact refl s

theorem of_control (running : s.held = none) (same : t.control = s.control) : Governed s t :=
  .kept same fun held => absurd running held

/-- A command that a held part does not take and that leaves the control items alone. -/
theorem keeps {f : State → State} (same : (f s).control = s.control) (run : whenRunning s f = .next t) : Governed s t :=
  of_whenRunning (fun running => of_control running same) run

/-- A mutating command is carried out for the holder alone. -/
theorem mutates {l : MgmtLink} {code : Byte} {f : State → State} (effect : s.holder = some l → Governed s (f s))
    (running : s.held = none) : Governed s (s.mutating l code f) := by
  by_cases holder : s.holder = some l
  · rw [mutating_holder holder]
    exact effect holder
  · rw [mutating_other holder]
    exact of_control running rfl

/-- A mutating command that leaves the control items alone. -/
theorem mutates_keeps {l : MgmtLink} {code : Byte} {f : State → State} (same : (f s).control = s.control)
    (run : whenRunning s (fun s => s.mutating l code f) = .next t) : Governed s t :=
  of_whenRunning (fun running => mutates (fun _ => of_control running same) running) run

/-! ### Resets -/

theorem fullReset (s u : State) (cause : StartCause) (strap : Plane) : Governed s (u.fullReset cause strap) := by
  refine .cleared rfl ?_ rfl rfl rfl fun p => ?_
  · exact iff_of_false (Option.some_ne_none _) fun held => held rfl
  · simp [State.link, State.fullReset, LinkPort.reset]

theorem holdReset (s u : State) (cause : StartCause) : Governed s (u.holdReset cause) := by
  obtain ⟨held, -, -, init, timer, ports⟩ := holdReset_holds u cause
  refine .cleared rfl ?_ rfl timer rfl fun p => (ports p).1
  rw [init, held]
  simp

theorem powerOn {strap : Plane} {presence : BitVec 32} {asserted : Bool}
    (run : execPowerOn strap presence asserted s = .next t) : Governed s t := by
  simp only [execPowerOn, Host.Outcome.next.injEq] at run
  subst run
  split
  · exact holdReset s _ _
  · exact fullReset s _ _ _

theorem resetLineAssert (run : execResetLineAssert s = .next t) : Governed s t := by
  simp only [execResetLineAssert, Host.Outcome.next.injEq] at run
  subst run
  split
  · exact refl s
  · exact holdReset s s _

theorem resetLineRelease {strap : Plane} (run : execResetLineRelease strap s = .next t) : Governed s t := by
  simp only [execResetLineRelease, Host.Outcome.next.injEq] at run
  subst run
  split
  · exact fullReset s s _ strap
  · exact refl s

theorem tableInitialisationCompletion {due : Time} (run : execTableInitialisationCompletion due s = .next t) :
    Governed s t := by
  refine of_whenRunning (fun running => ?_) run
  split
  · exact .completed running rfl
  · exact refl s

/-! ### Link ports, words and cells -/

/-- A held part keeps the level alone. -/
theorem presenceChange {p : Port} {present : Bool} (run : execPresenceChange p present s = .next t) : Governed s t := by
  by_cases running : s.held = none
  · simp only [execPresenceChange, Host.Outcome.next.injEq] at run
    subst run
    refine of_control running ?_
    split
    · rfl
    · split
      · rfl
      · rw [control_presenceMove]
        rfl
  · obtain ⟨-, q, level, rfl⟩ := levelKept_of_presenceChange running run
    refine .kept rfl fun _ p => ?_
    simp only [State.link, updLink_links, Bank.get_upd]
    split <;> rfl

theorem mark {p : Port} (run : execMark p s = .next t) : Governed s t := by
  refine keeps ?_ run
  split
  · simp only [goodMark]
    split <;> simp
  · exact control_receive rfl rfl

theorem framingFailure {p : Port} (run : execFramingFailure p s = .next t) : Governed s t := by
  have failed : (s.framingFailed p).control = s.control := by
    simp only [framingFailed]
    split <;> simp
  refine keeps ?_ run
  split
  · rfl
  · rfl
  · rfl
  · rfl
  · exact failed
  · exact failed

theorem failedWord {p : Port} (run : execFailedWord p s = .next t) : Governed s t :=
  keeps (control_receive (control_checkError _ p) (control_checkError _ p)) run

theorem hello {p : Port} {n : Fin 128} (run : execHello p n s = .next t) : Governed s t := by
  refine keeps (control_receive ?_ ?_) run
  · unfold helloInExchange
    split <;> simp
  · unfold helloInUp
    split <;> simp

theorem exchangeTimerExpiry {p : Port} {due : Time} (run : execExchangeTimerExpiry p due s = .next t) : Governed s t := by
  refine keeps ?_ run
  split
  · simp only [exchangeExpired]
    split <;> simp
  · rfl

theorem checkErrorWindowExpiry {p : Port} {due : Time} (run : execCheckErrorWindowExpiry p due s = .next t) :
    Governed s t := by
  refine keeps ?_ run
  split <;> rfl

theorem request {p : Port} {d : Dest} {c : Cls} {n : Fin 16} (run : execRequest p d c n s = .next t) : Governed s t := by
  refine keeps (control_receive rfl ?_) run
  split <;> simp

theorem groupRequest {p : Port} {g : Group} {c : Cls} (run : execGroupRequest p g c s = .next t) : Governed s t :=
  keeps (control_receive rfl (control_intakeWord _ p _)) run

theorem resync {p : Port} (run : execResync p s = .next t) : Governed s t :=
  keeps (control_receive rfl (control_resynced _ p)) run

theorem creditReturn {p : Port} {n : Fin 32} (run : execCredit p n s = .next t) : Governed s t := by
  refine keeps (control_receive rfl ?_) run
  split <;> simp

theorem cell {p : Port} {x : UpCell} (run : execCell p x s = .next t) : Governed s t := by
  refine keeps (control_receive rfl ?_) run
  split <;> simp

/-! ### The part's own decisions and transmitters -/

theorem absorption (run : execAbsorption s = .next t) : Governed s t := by
  refine keeps ?_ run
  split
  · rfl
  · split
    · rfl
    · exact control_absorb s _ _ _

theorem unicastGrantDecision {j : Port} {chosen : Option Candidate}
    (run : execUnicastGrantDecision j chosen s = .next t) : Governed s t := by
  refine keeps ?_ run
  have decides (refused : Bool) : (if refused then s.decideAfresh j else
      match s.decision j with
      | .grant x => s.grantUnicast j x
      | .none | .deliver _ => s).control = s.control := by
    split
    · exact control_decideAfresh s j
    · split
      · exact control_grantUnicast s j _
      · rfl
      · rfl
  exact decides _

theorem deliveryDecision {j : Port} (run : execDeliveryDecision j s = .next t) : Governed s t := by
  refine keeps ?_ run
  split <;> rfl

theorem allocatorDecision (run : execAllocatorDecision s = .next t) : Governed s t := by
  refine keeps ?_ run
  split
  · split
    · exact control_grantMulticast s _ _ _
    · rfl
  · rfl

theorem grantExpiry {p : Port} {tag : Tag} {due : Time} (run : execGrantExpiry p tag due s = .next t) : Governed s t := by
  refine keeps ?_ run
  split
  · split
    · exact control_lapse _ p _
    · rfl
  · rfl

theorem transmissionStart {j : Port} (run : execTransmissionStart j s = .next t) : Governed s t := by
  refine keeps ?_ run
  simp only
  split
  · split <;> rfl
  · rfl

theorem transmitCompletion {j : Port} (run : execTransmitCompletion j s = .next t) : Governed s t := by
  refine keeps ?_ run
  split
  · split
    · exact control_complete s j _
    · rfl
  · rfl

theorem controlWordTransmission {j : Port} (run : execControlWordTransmission j s = .next t) : Governed s t := by
  refine keeps ?_ run
  simp only
  split
  · split <;> rfl
  · rw [sendFill_eq]
    split <;> rfl

/-! ### Steering -/

theorem claim {l : MgmtLink} (run : execClaim l s = .next t) : Governed s t := by
  refine of_whenRunning (fun running => ?_) run
  split
  · exact .claimed running l _ rfl
  · exact of_control running rfl

theorem refresh {l : MgmtLink} (run : execRefresh l s = .next t) : Governed s t := by
  refine of_whenRunning (fun running => ?_) run
  split
  · exact .claimed running l _ rfl
  · exact of_control running rfl

theorem release {l : MgmtLink} (run : execRelease l s = .next t) : Governed s t := by
  refine of_whenRunning (fun running => ?_) run
  split
  · exact .dropped running rfl
  · exact of_control running rfl

theorem claimTimerExpiry {due : Time} (run : execClaimTimerExpiry due s = .next t) : Governed s t := by
  refine of_whenRunning (fun running => ?_) run
  split
  · exact .dropped running rfl
  · exact refl s

/-! ### Staging -/

/-- The destination of a staged entry that is replaced in place stays. -/
theorem map_dest_set {es : List StagedEntry} {d : Dest} {k : Nat} (at_ : es.findIdx? (fun e => e.dest = d) = some k)
    (m : Mapping) : (es.set k ⟨d, m⟩).map StagedEntry.dest = es.map StagedEntry.dest := by
  obtain ⟨inside, here, -⟩ := List.findIdx?_eq_some_iff_getElem.mp at_
  rw [decide_eq_true_eq] at here
  rw [List.map_set, ← here, ← List.getElem_map StagedEntry.dest (h := by simpa using inside), List.set_getElem_self]

theorem stageMap {l : MgmtLink} {dest state port : Byte} (run : execStageMap l dest state port s = .next t) :
    Governed s t := by
  refine of_whenRunning (fun running => mutates (fun holder => ?_) running) run
  split
  · exact of_control running rfl
  · split
    · next d m _ _ =>
      split
      · next k at_ =>
        refine .staged running l holder (s.staging.set k ⟨d, m⟩) (fun short => ?_) (fun distinct => ?_) rfl
        · rwa [List.length_set]
        · rwa [map_dest_set at_]
      · next absent =>
        split
        · exact of_control running rfl
        · next room =>
          refine .staged running l holder (s.staging ++ [⟨d, m⟩]) (fun _ => ?_) (fun distinct => ?_) rfl
          · simp only [stagingLimit] at room
            rw [List.length_append, List.length_singleton]
            omega
          · have other : ∀ e ∈ s.staging, e.dest ≠ d := by simpa [State.stagedAt] using absent
            simpa [List.nodup_append, distinct] using other
    · exact of_control running rfl

/-- The emptied staging list. -/
theorem emptied (running : s.held = none) {l : MgmtLink} (holder : s.holder = some l)
    (change : t.control = { s.control with staging := [] }) : Governed s t :=
  .staged running l holder [] (fun _ => Nat.zero_le 16) (fun _ => List.nodup_nil) change

theorem discardStaging {l : MgmtLink} (run : execDiscardStaging l s = .next t) : Governed s t :=
  of_whenRunning (fun running => mutates (fun holder => emptied running holder rfl) running) run

theorem commitMap {l : MgmtLink} (run : execCommitMap l s = .next t) : Governed s t := by
  refine of_whenRunning (fun running => mutates (fun holder => ?_) running) run
  split
  · exact of_control running rfl
  · split
    · exact of_control running rfl
    · refine emptied running holder ?_
      have applied := control_applyAll s s.staging
      exact congrArg (fun c : Control => { c with staging := [] }) applied

/-! ### Settings, tables, events and meters -/

theorem meterGateExpiry {m : Chan} {due : Time} (run : execMeterGateExpiry m due s = .next t) : Governed s t := by
  refine keeps ?_ run
  split <;> rfl

theorem messageCheckFailure {l : MgmtLink} (run : execMessageCheckFailure l s = .next t) : Governed s t := by
  refine keeps ?_ run
  split <;> rfl

theorem setTiming {l : MgmtLink} {window timeout : Byte} (run : execSetTiming l window timeout s = .next t) :
    Governed s t := by
  refine mutates_keeps ?_ run
  split <;> rfl

theorem setPort {l : MgmtLink} {port enable hold policy sole turn threshold : Byte}
    (run : execSetPort l port enable hold policy sole turn threshold s = .next t) : Governed s t := by
  refine mutates_keeps ?_ run
  split <;> simp

theorem readPort {l : MgmtLink} {port : Byte} (run : execReadPort l port s = .next t) : Governed s t := by
  refine keeps ?_ run
  split <;> rfl

theorem fabricRestart {l : MgmtLink} (run : execFabricRestart l s = .next t) : Governed s t :=
  mutates_keeps (code := 8)
    (f := fun s => s.restart.respond l 8 .done (.number ((List.finRange 32).countP s.restarted))) (control_restart s) run

theorem writeGroup {l : MgmtLink} {g : BitVec 16} {valid prune : Byte} {members : List Byte}
    (run : execWriteGroup l g valid prune members s = .next t) : Governed s t := by
  refine mutates_keeps ?_ run
  split
  · rfl
  · split <;> rfl

theorem readMap {l : MgmtLink} (run : execReadMap l s = .next t) : Governed s t := by
  refine keeps ?_ run
  split <;> rfl

theorem readGroup {l : MgmtLink} {g : BitVec 16} (run : execReadGroup l g s = .next t) : Governed s t := by
  refine keeps ?_ run
  split
  · rfl
  · split <;> rfl

theorem readRequests {l : MgmtLink} {port : Byte} (run : execReadRequests l port s = .next t) : Governed s t := by
  refine keeps ?_ run
  split <;> rfl

theorem clearEvents {l : MgmtLink} {kinds : BitVec 16} (run : execClearEvents l kinds s = .next t) : Governed s t := by
  refine keeps ?_ run
  split <;> simp

theorem setMask {l : MgmtLink} {kinds : BitVec 16} (run : execSetMask l kinds s = .next t) : Governed s t := by
  refine keeps ?_ run
  split <;> simp

theorem readTallies {l : MgmtLink} {port : Byte} (run : execReadTallies l port s = .next t) : Governed s t := by
  refine keeps ?_ run
  split <;> rfl

theorem clearTallies {l : MgmtLink} {port : Byte} (run : execClearTallies l port s = .next t) : Governed s t := by
  refine mutates_keeps ?_ run
  split
  · rfl
  · split <;> rfl

theorem startMeter {l : MgmtLink} {chan port direction gate : Byte}
    (run : execStartMeter l chan port direction gate s = .next t) : Governed s t := by
  refine mutates_keeps ?_ run
  split
  · split <;> rfl
  · rfl

theorem stopMeter {l : MgmtLink} {chan : Byte} (run : execStopMeter l chan s = .next t) : Governed s t := by
  refine mutates_keeps ?_ run
  split <;> rfl

theorem readMeter {l : MgmtLink} {chan : Byte} (run : execReadMeter l chan s = .next t) : Governed s t := by
  refine keeps ?_ run
  simp only
  split
  · split <;> rfl
  · rfl

/-- A command that only answers. -/
theorem answers {l : MgmtLink} {code : Byte} {st : Status} {d : State → ResponseData}
    (run : whenRunning s (fun s => s.respond l code st (d s)) = .next t) : Governed s t :=
  keeps rfl run

/-- Every command does one of these. -/
theorem of_exec {c : Instr} (run : exec c s = .next t) : Governed s t := by
  cases c with
  | powerOn => exact powerOn run
  | resetLineAssert => exact resetLineAssert run
  | resetLineRelease => exact resetLineRelease run
  | tableInitialisationCompletion => exact tableInitialisationCompletion run
  | presenceChange => exact presenceChange run
  | mark => exact mark run
  | framingFailure => exact framingFailure run
  | failedWord => exact failedWord run
  | hello => exact hello run
  | request => exact request run
  | groupRequest => exact groupRequest run
  | resync => exact resync run
  | credit => exact creditReturn run
  | cell => exact cell run
  | absorption => exact absorption run
  | unicastGrantDecision => exact unicastGrantDecision run
  | deliveryDecision => exact deliveryDecision run
  | allocatorDecision => exact allocatorDecision run
  | grantExpiry => exact grantExpiry run
  | transmissionStart => exact transmissionStart run
  | transmitCompletion => exact transmitCompletion run
  | exchangeTimerExpiry => exact exchangeTimerExpiry run
  | checkErrorWindowExpiry => exact checkErrorWindowExpiry run
  | claimTimerExpiry => exact claimTimerExpiry run
  | meterGateExpiry => exact meterGateExpiry run
  | messageCheckFailure => exact messageCheckFailure run
  | unknownCommand => exact answers (d := fun _ => .none) run
  | identify => exact answers (d := fun s => .identity (s.identity _)) run
  | claim => exact claim run
  | refresh => exact refresh run
  | release => exact release run
  | setTiming => exact setTiming run
  | setPort => exact setPort run
  | readPort => exact readPort run
  | fabricRestart => exact fabricRestart run
  | stageMap => exact stageMap run
  | discardStaging => exact discardStaging run
  | commitMap => exact commitMap run
  | readStaging => exact answers (d := fun s => .staging s.staging s.holder) run
  | readMap => exact readMap run
  | writeGroup => exact writeGroup run
  | readGroup => exact readGroup run
  | readRequests => exact readRequests run
  | readEvents => exact answers (d := fun s => .events (s.view _).visible (s.view _).mask) run
  | clearEvents => exact clearEvents run
  | setMask => exact setMask run
  | readCapture => exact answers (d := fun s => .capture s.capture s.moreFaults) run
  | clearCapture => exact mutates_keeps rfl run
  | readTallies => exact readTallies run
  | clearTallies => exact clearTallies run
  | startMeter => exact startMeter run
  | stopMeter => exact stopMeter run
  | readMeter => exact readMeter run
  | controlWordTransmission => exact controlWordTransmission run

/-- A law that what a command may do keeps, and that the clock and the queue of commands do not matter to, is kept by
every step. -/
theorem law_of_step {P : State → Prop} (keep : ∀ u v, P u → Governed u v → P v) (h : P s) (run : step s = .next t) :
    P t := by
  unfold step at run
  split at run
  · cases run
    exact keep s _ h (.kept rfl fun _ _ => rfl)
  · next c rest _ =>
    have queued : P { s with pending := rest } := keep s _ h (.kept rfl fun _ _ => rfl)
    exact keep _ t queued (of_exec run)

end Governed

end Sys2Proof.Machine

section
open Sys2Proof.Machine Sys2Proof.Machine.State

/-- Settles O3, by what each command may do to the reset line, the tables and steering. -/
theorem stepsKeepResetAndSteeringLaws : Obligations.StepsKeepResetAndSteeringLaws := by
  unfold Obligations.StepsKeepResetAndSteeringLaws
  exact ⟨fun s t => Governed.law_of_step fun u v => resetOk_governed,
    fun s t => Governed.law_of_step fun u v => steeringOk_governed⟩

end
end

section
/-! PROOF. Proofs/Refusals.lean: the refusals of management commands, by steering, by the tables, and by each argument that
is out of range (R40, R154, R155). -/

namespace Sys2Proof.Machine.State

variable {s : State} {l : MgmtLink}

/-! ### Steering first -/

theorem notSteering_running (running : s.held = none) (other : s.holder ≠ some l) {code : Byte} {f : State → State} :
    whenRunning s (fun s => s.mutating l code f) = .next (s.respond l code .notSteering .none) :=
  (whenRunning_running running _).trans (congrArg _ (mutating_other other code f))

/-- Without steering a mutating command is not read any further. -/
theorem exec_notSteering (running : s.held = none) {c : Instr} {code : Byte} (mutating : mutates c = some (l, code))
    (other : s.holder ≠ some l) : exec c s = .next (s.respond l code .notSteering .none) := by
  cases c <;> cases mutating
  all_goals exact notSteering_running running other

section
variable (running : s.held = none)
include running

/-- The effect of a mutating command of the holder. -/
theorem mutating_running (holder : s.holder = some l) {code : Byte} {f : State → State} {t : State} (effect : f s = t) :
    whenRunning s (fun s => s.mutating l code f) = .next t :=
  (whenRunning_running running _).trans (congrArg _ ((mutating_holder holder code f).trans effect))

/-! ### Then the tables -/

section
variable (notReady : s.tablesReady = false)
include notReady

theorem exec_readMap_notReady (l : MgmtLink) : exec (.readMap l) s = .next (s.respond l 13 .notReady .none) :=
  (show execReadMap l s = _ from whenRunning_running running _).trans (congrArg _ (if_pos (by simp [notReady])))

theorem exec_readGroup_notReady (l : MgmtLink) (g : BitVec 16) :
    exec (.readGroup l g) s = .next (s.respond l 15 .notReady .none) :=
  (show execReadGroup l g s = _ from whenRunning_running running _).trans (congrArg _ (if_pos (by simp [notReady])))

theorem exec_stageMap_notReady (holder : s.holder = some l) (dest st port : Byte) :
    exec (.stageMap l dest st port) s = .next (s.respond l 9 .notReady .none) :=
  show execStageMap l dest st port s = _ from mutating_running running holder (if_pos (by simp [notReady]))

theorem exec_commitMap_notReady (holder : s.holder = some l) :
    exec (.commitMap l) s = .next (s.respond l 11 .notReady .none) :=
  show execCommitMap l s = _ from mutating_running running holder (if_pos (by simp [notReady]))

theorem exec_writeGroup_notReady (holder : s.holder = some l) (g : BitVec 16) (v pr : Byte) (ms : List Byte) :
    exec (.writeGroup l g v pr ms) s = .next (s.respond l 14 .notReady .none) :=
  show execWriteGroup l g v pr ms s = _ from mutating_running running holder (if_pos (by simp [notReady]))

end

/-! ### Then a port out of range -/

section
variable {p : Byte} (beyond : 32 ≤ p.toNat)
include beyond

theorem exec_readPort_badPort (l : MgmtLink) : exec (.readPort l p) s = .next (s.respond l 7 .badArgument .none) := by
  refine (show execReadPort l p s = _ from whenRunning_running running _).trans ?_
  simp only [numArg_of_le beyond]

theorem exec_readRequests_badPort (l : MgmtLink) :
    exec (.readRequests l p) s = .next (s.respond l 16 .badArgument .none) := by
  refine (show execReadRequests l p s = _ from whenRunning_running running _).trans ?_
  simp only [numArg_of_le beyond]

theorem exec_readTallies_badPort (l : MgmtLink) :
    exec (.readTallies l p) s = .next (s.respond l 22 .badArgument .none) := by
  refine (show execReadTallies l p s = _ from whenRunning_running running _).trans ?_
  simp only [numArg_of_le beyond]

/-- 255 names all ports for CLEAR TALLIES. -/
theorem exec_clearTallies_badPort (holder : s.holder = some l) (one : p.toNat ≠ 255) :
    exec (.clearTallies l p) s = .next (s.respond l 23 .badArgument .none) := by
  refine show execClearTallies l p s = _ from mutating_running running holder ?_
  rw [if_neg one, numArg_of_le beyond]

theorem exec_setPort_badPort (holder : s.holder = some l) (e h pol src k th : Byte) :
    exec (.setPort l p e h pol src k th) s = .next (s.respond l 6 .badArgument .none) := by
  refine show execSetPort l p e h pol src k th s = _ from mutating_running running holder ?_
  rw [numArg_of_le beyond]

theorem exec_startMeter_badPort (holder : s.holder = some l) (m d g : Byte) :
    exec (.startMeter l m p d g) s = .next (s.respond l 24 .badArgument .none) := by
  refine show execStartMeter l m p d g s = _ from mutating_running running holder ?_
  rw [numArg_of_le beyond]
  cases numArg 4 m.toNat <;> rfl

end

/-! ### A channel, a set of kinds, or a group out of range -/

theorem exec_readMeter_badChannel {m : Byte} (beyond : 4 ≤ m.toNat) (l : MgmtLink) :
    exec (.readMeter l m) s = .next (s.respond l 26 .badArgument .none) := by
  refine (show execReadMeter l m s = _ from whenRunning_running running _).trans ?_
  simp only [numArg_of_le beyond]

theorem exec_stopMeter_badChannel {m : Byte} (beyond : 4 ≤ m.toNat) (holder : s.holder = some l) :
    exec (.stopMeter l m) s = .next (s.respond l 25 .badArgument .none) := by
  refine show execStopMeter l m s = _ from mutating_running running holder ?_
  rw [numArg_of_le beyond]

theorem exec_startMeter_badChannel {m : Byte} (beyond : 4 ≤ m.toNat) (holder : s.holder = some l) (p d g : Byte) :
    exec (.startMeter l m p d g) s = .next (s.respond l 24 .badArgument .none) := by
  refine show execStartMeter l m p d g s = _ from mutating_running running holder ?_
  rw [numArg_of_le beyond]

theorem exec_clearEvents_badKinds {ks : BitVec 16} (beyond : 8192 ≤ ks.toNat) (l : MgmtLink) :
    exec (.clearEvents l ks) s = .next (s.respond l 18 .badArgument .none) := by
  refine (show execClearEvents l ks s = _ from whenRunning_running running _).trans ?_
  simp only [kindsArg_of_le beyond]

theorem exec_setMask_badKinds {ks : BitVec 16} (beyond : 8192 ≤ ks.toNat) (l : MgmtLink) :
    exec (.setMask l ks) s = .next (s.respond l 19 .badArgument .none) := by
  refine (show execSetMask l ks s = _ from whenRunning_running running _).trans ?_
  simp only [kindsArg_of_le beyond]

theorem exec_readGroup_badGroup (ready : s.tablesReady = true) {g : BitVec 16} (beyond : 1024 ≤ g.toNat)
    (l : MgmtLink) : exec (.readGroup l g) s = .next (s.respond l 15 .badArgument .none) := by
  refine (show execReadGroup l g s = _ from whenRunning_running running _).trans (congrArg _ ?_)
  rw [if_neg (by simp [ready]), numArg_of_le beyond]

theorem exec_writeGroup_badGroup (holder : s.holder = some l) (ready : s.tablesReady = true) {g : BitVec 16}
    (beyond : 1024 ≤ g.toNat) (v pr : Byte) (ms : List Byte) :
    exec (.writeGroup l g v pr ms) s = .next (s.respond l 14 .badArgument .none) := by
  refine show execWriteGroup l g v pr ms s = _ from mutating_running running holder ?_
  rw [if_neg (by simp [ready]), numArg_of_le beyond]

end

end Sys2Proof.Machine.State

section
open Sys2Proof Sys2Proof.Machine Sys2Proof.Machine.State

/-- Settles O48, one test after another in their order. -/
theorem refusalsAreTestedInTheirOrder : Obligations.RefusalsAreTestedInTheirOrder := by
  unfold Obligations.RefusalsAreTestedInTheirOrder
  intro s l running
  refine ⟨fun c code => exec_notSteering running, fun notReady => ?tables, fun p beyond => ?ports,
    fun m beyond => ?channels, fun ks beyond => ?kinds, fun ready g beyond => ?groups⟩
  case tables =>
    exact ⟨exec_readMap_notReady running notReady l, exec_readGroup_notReady running notReady l, fun holder =>
      ⟨exec_stageMap_notReady running notReady holder, exec_commitMap_notReady running notReady holder,
        exec_writeGroup_notReady running notReady holder⟩⟩
  case ports =>
    exact ⟨exec_readPort_badPort running beyond l, exec_readRequests_badPort running beyond l,
      exec_readTallies_badPort running beyond l, exec_clearTallies_badPort running beyond, fun holder =>
      ⟨exec_setPort_badPort running beyond holder, exec_startMeter_badPort running beyond holder⟩⟩
  case channels =>
    exact ⟨exec_readMeter_badChannel running beyond l, fun holder =>
      ⟨exec_stopMeter_badChannel running beyond holder, exec_startMeter_badChannel running beyond holder⟩⟩
  case kinds => exact ⟨exec_clearEvents_badKinds running beyond l, exec_setMask_badKinds running beyond l⟩
  case groups =>
    exact ⟨exec_readGroup_badGroup running ready beyond l, fun holder =>
      exec_writeGroup_badGroup running holder ready beyond⟩

end
end

section
/-! PROOF. Proofs/Staging.lean: the staging list under STAGE MAP and DISCARD STAGING (R29 to R31). -/

namespace Sys2Proof.Machine.State

variable {s : State} {l : MgmtLink} {d : Dest} {m : Mapping} {dest st port : Byte}

/-! ### The entry of a destination -/

theorem stagedAt_eq_none (absent : ∀ x ∈ s.staging, x.dest ≠ d) : s.stagedAt d = none := by
  simpa [stagedAt] using absent

/-- The first entry of a destination stands behind those of other destinations. -/
theorem stagedAt_eq_some {before after : List StagedEntry} {e : StagedEntry} (list : s.staging = before ++ e :: after)
    (here : e.dest = d) (others : ∀ x ∈ before, x.dest ≠ d) : s.stagedAt d = some before.length := by
  have skipped : before.findIdx? (fun x => x.dest = d) = none := by simpa using others
  rw [stagedAt, list, List.findIdx?_append, skipped]
  simp [List.findIdx?_cons, here]

/-! ### The commands of the holder -/

variable (running : s.held = none) (holder : s.holder = some l)
include running holder

theorem exec_discardStaging :
    exec (.discardStaging l) s = .next ({ s with staging := [] }.respond l 10 .done (.number s.staging.length)) :=
  show execDiscardStaging l s = _ from mutating_running running holder rfl

variable (ready : s.tablesReady = true)
include ready

/-- A destination, state or port out of range refuses STAGE MAP. -/
theorem exec_stageMap_refused (refused : 64 ≤ dest.toNat ∨ mappingArg st port = none) :
    exec (.stageMap l dest st port) s = .next (s.respond l 9 .badArgument .none) := by
  refine show execStageMap l dest st port s = _ from mutating_running running holder ?_
  rw [if_neg (by simp [ready])]
  split
  · next d m number mapping =>
    rcases refused with beyond | unmapped
    · rw [numArg_of_le beyond] at number
      cases number
    · rw [unmapped] at mapping
      cases mapping
  · rfl

variable (number : d.val = dest.toNat) (mapping : mappingArg st port = some m)
include number mapping

theorem exec_stageMap_replace {k : Nat} (staged : s.stagedAt d = some k) :
    exec (.stageMap l dest st port) s =
      .next ({ s with staging := s.staging.set k ⟨d, m⟩ }.respond l 9 .done (.staged (k + 1) s.staging.length)) := by
  refine show execStageMap l dest st port s = _ from mutating_running running holder ?_
  simp only [ready, Bool.not_true, Bool.false_eq_true, if_false, numArg_of_val number, mapping, staged]

theorem exec_stageMap_append (absent : s.stagedAt d = none) (room : s.staging.length < 16) :
    exec (.stageMap l dest st port) s = .next ({ s with staging := s.staging ++ [StagedEntry.mk d m] }.respond l 9 .done
      (.staged (s.staging.length + 1) (s.staging.length + 1))) := by
  have open_ : ¬ stagingLimit ≤ s.staging.length := Nat.not_le.mpr room
  refine show execStageMap l dest st port s = _ from mutating_running running holder ?_
  simp only [ready, Bool.not_true, Bool.false_eq_true, if_false, numArg_of_val number, mapping, absent, open_]

theorem exec_stageMap_full (absent : s.stagedAt d = none) (full : 16 ≤ s.staging.length) :
    exec (.stageMap l dest st port) s = .next (s.respond l 9 .full .none) := by
  have limit : stagingLimit ≤ s.staging.length := full
  refine show execStageMap l dest st port s = _ from mutating_running running holder ?_
  simp only [ready, Bool.not_true, Bool.false_eq_true, if_false, numArg_of_val number, mapping, absent, limit, if_true]

end Sys2Proof.Machine.State

section
open Sys2Proof Sys2Proof.Machine Sys2Proof.Machine.State

/-- Settles O53, by the arguments' ranges, and by whether an entry of the destination is staged. -/
theorem stagingHoldsOneEntryForADestination : Obligations.StagingHoldsOneEntryForADestination := by
  unfold Obligations.StagingHoldsOneEntryForADestination
  intro s l running holder
  refine ⟨exec_discardStaging running holder, fun ready dest st port =>
    ⟨exec_stageMap_refused running holder ready, fun d m number mapping => ⟨?replace, ?append, ?full⟩⟩⟩
  case replace =>
    intro before e after list here others
    rw [exec_stageMap_replace running holder ready number mapping (stagedAt_eq_some list here others), list]
    simp
  case append =>
    exact fun absent => exec_stageMap_append running holder ready number mapping (stagedAt_eq_none absent)
  case full =>
    exact fun absent => exec_stageMap_full running holder ready number mapping (stagedAt_eq_none absent)

end
end

section
/-! PROOF. Proofs/TableReads.lean: READ STAGING, READ MAP, READ GROUP and READ REQUESTS (R21, R32, R38, R112). -/

namespace Sys2Proof

theorem Bank.cells_eq {n : Nat} {α : Type} (b : Bank n α) : b.cells = (List.finRange n).map b.get :=
  congrArg Bank.cells b.tab_get.symm

namespace Machine.State

variable {s : State} {p : Port}

/-! ### The counts of a row (R21) -/

theorem mem_rowEntries {d : Dest} {c : Cls} {n : Nat} : (d, c, n) ∈ s.rowEntries p ↔ n ≠ 0 ∧ s.count p d c = n := by
  simp only [rowEntries, List.mem_flatMap, List.mem_filterMap, List.mem_finRange, true_and,
    Option.ite_none_left_eq_some, Option.some.injEq, Prod.mk.injEq]
  constructor
  · rintro ⟨d', c', some, rfl, rfl, rfl⟩
    exact ⟨some, rfl⟩
  · rintro ⟨some, rfl⟩
    exact ⟨d, c, some, rfl, rfl, rfl⟩

/-- Destinations ascend, and the classes of each. -/
theorem rowEntries_ascending (s : State) (p : Port) :
    (s.rowEntries p).Pairwise fun a b => a.1 < b.1 ∨ (a.1 = b.1 ∧ a.2.1 < b.2.1) := by
  refine List.pairwise_flatMap.mpr ⟨fun d _ => List.pairwise_filterMap.mpr ?_, ?_⟩
  · refine (List.pairwise_lt_finRange 4).imp fun {c c'} below x entry y entry' => ?_
    simp only [Option.ite_none_left_eq_some, Option.some.injEq] at entry entry'
    obtain ⟨-, rfl⟩ := entry
    obtain ⟨-, rfl⟩ := entry'
    exact .inr ⟨rfl, below⟩
  · refine (List.pairwise_lt_finRange 64).imp fun {d d'} below x mem y mem' => ?_
    simp only [List.mem_filterMap, Option.ite_none_left_eq_some, Option.some.injEq] at mem mem'
    obtain ⟨c, -, -, rfl⟩ := mem
    obtain ⟨c', -, -, rfl⟩ := mem'
    exact .inl below

/-! ### The commands -/

theorem exec_readStaging (running : s.held = none) (l : MgmtLink) :
    exec (.readStaging l) s = .next (s.respond l 12 .done (.staging s.staging s.holder)) :=
  show execReadStaging l s = _ from whenRunning_running running _

theorem exec_readMap (running : s.held = none) (ready : s.tablesReady = true) (l : MgmtLink) :
    exec (.readMap l) s = .next (s.respond l 13 .done (.map ((List.finRange 64).map s.portMap.get))) := by
  refine (show execReadMap l s = _ from whenRunning_running running _).trans (congrArg _ ?_)
  rw [if_neg (by simp [ready]), Bank.cells_eq]

theorem exec_readGroup (running : s.held = none) (ready : s.tablesReady = true) (l : MgmtLink) {g : BitVec 16}
    {k : Group} (number : k.val = g.toNat) :
    exec (.readGroup l g) s = .next (s.respond l 15 .done (.group k (s.groups.get k))) := by
  refine (show execReadGroup l g s = _ from whenRunning_running running _).trans (congrArg _ ?_)
  rw [if_neg (by simp [ready]), numArg_of_val number]

theorem exec_readRequests (running : s.held = none) (l : MgmtLink) {port : Byte} (number : p.val = port.toNat) :
    exec (.readRequests l port) s = .next (s.respond l 16 .done
      (.requests p (s.intakes.get p).queue.length (s.intakes.get p).hold (s.intakes.get p).blocked
        (s.rowEntries p))) := by
  refine (show execReadRequests l port s = _ from whenRunning_running running _).trans ?_
  simp only [numArg_of_val number]

end Machine.State

end Sys2Proof

section
open Sys2Proof Sys2Proof.Machine Sys2Proof.Machine.State

/-- Settles O55, command by command; a row's entries are found and ordered by the lists of destinations and classes. -/
theorem tableReadsReturnTheTables : Obligations.TableReadsReturnTheTables := by
  unfold Obligations.TableReadsReturnTheTables
  intro s l running
  exact ⟨exec_readStaging running l,
    fun ready => ⟨exec_readMap running ready l, fun g k => exec_readGroup running ready l⟩, fun port p number =>
    ⟨s.rowEntries p, exec_readRequests running l number, fun d c n => mem_rowEntries, rowEntries_ascending s p⟩⟩

end
end
